-- ==== Sys2Proof/Word.lean ====
section
/-! DEFINITION. The word types of the ST7701 sequencer block. -/

namespace Sys2Proof

/-- A byte: a command code, a data byte, a pixel byte, a pin id. -/
abbrev Byte := BitVec 8

/-- A word of descriptor memory (20_memory.md R81). -/
abbrev Word := BitVec 32

end Sys2Proof
end

