-- ==== Sys2Proof/Config.lean ====
section
/-! DEFINITION. What an implementation fixes (00_scope.md R7) and the free values.

`Params` is the record of the parameters the spec has a model take as an argument. A state carries
one (State.cfg) and no step changes it, so a statement for every state is a statement for every
parameter set (log 4). The `opaque` constants are the free values: nothing can evaluate them. -/

namespace Sys2Proof

/-- A received CAN frame: the OPEN type Frame of R7. DESIGN CHOICE (log 10): an uninterpreted token. -/
structure Frame where
  token : Nat
deriving DecidableEq, Repr

/-- Which required delay an entry of the init transcript carries (R12). -/
inductive Role where
  | plain | midDelay | sleepOut | powerCtl | displayOn
deriving DecidableEq, Repr

/-- One entry of INIT_TRANSCRIPT (R12). -/
structure TranscriptEntry where
  cmd : Byte
  data : List Byte
  postDelay : Nat
  role : Role
deriving DecidableEq, Repr

/-- The row stride of the source pixels of a clamped blit: BLIT_SRC_STRIDE (44_blit.md R259). -/
inductive SrcStride where
  | clamped | requested
deriving DecidableEq, Repr

/-- One BusConfiguration: the operands of CANCFG (30_encoding.md R119). -/
structure BusConfig where
  txPin : BitVec 8
  rxPin : BitVec 8
  mode : BitVec 8
  alerts : BitVec 3
  rxqDepth : Nat
  txqDepth : Nat
  timing : BitVec 32
  filter : BitVec 32
deriving DecidableEq, Repr

/-- Timing, geometry and buffer policy: the operands of DPCFG (30_encoding.md R120). -/
structure PlaneConfig where
  hsyncPw : Nat
  hbp : Nat
  hfp : Nat
  vsyncPw : Nat
  vbp : Nat
  vfp : Nat
  hRes : Nat
  vRes : Nat
  pclkHz : Nat
  clkSrc : BitVec 8
  dataWidth : Nat
  bpp : Nat
  fbCount : Nat
  bouncePx : Nat
  placement : Bool
deriving DecidableEq, Repr

/-- The implementation parameters of R7. The delay minima T_*, ADDR_W, COORD_W and BUF_ALIGN, whose
values the spec fixes, are definitions of Machine/Params.lean. -/
structure Params where
  /-- INIT_TRANSCRIPT -/
  transcript : List TranscriptEntry
  slpoutCode : Byte
  disponCode : Byte
  /-- PAGESEL_CODE: no rule gives it a meaning (R160; log 23). -/
  pageselCode : Byte
  /-- REQ_DELAY as a table; a code not in it owes 0 (R15). -/
  reqDelay : List (Byte × Nat)
  rstPin : BitVec 8
  csPin : BitVec 8
  /-- RXQ_DEPTH, TXQ_DEPTH, CAN_TX_PIN, CAN_RX_PIN, CAN_MODE, CAN_TIMING, CAN_FILTER, ALERT_EN_CFG:
  what the host passes to CANCFG. -/
  bus : BusConfig
  /-- RXQ_DEFAULT, the driver's default depth. No rule reads it (log 23). -/
  rxqDefault : Nat
  /-- What is known of the acceptance filter, by filter id and frame; where it says nothing the
  filter is the free `Config.accept` (log 11). -/
  acceptTable : List ((BitVec 32 × Frame) × Bool)
  panelW : Nat
  panelH : Nat
  virtW : Nat
  virtH : Nat
  offX : Nat
  offY : Nat
  bytesPP : Nat
  bpp : Nat
  bufFactor : Nat
  /-- The RGB timing values the host passes to DPCFG (its hRes, vRes and bpp stand beside
  panelW, panelH and bpp above). -/
  plane : PlaneConfig
  blMax : Nat
  blFull : Nat
  /-- BL_FREQ: no effect (60_exceptions.md R285; log 23). -/
  blFreq : Nat
  srcStride : SrcStride
  /-- Address ranges (base, size) known to be DMA-capable; of any other range the free
  `Config.dmaOk` decides (log 12). -/
  dmaRegions : List (Nat × Nat)
  /-- TU, the length of a time-unit: no rule reads it (log 23). -/
  tu : Nat
  /-- PIXEL_FORMAT: no rule reads it (20_memory.md R87; log 23). -/
  pixelFormat : Nat
deriving DecidableEq, Repr

/-- The environment's draws (00_scope.md R10, 60_exceptions.md R288): the value of draw number n
where nothing has fixed it in advance. A free value (log 2). -/
opaque Config.draw : Nat → Nat

/-- The acceptance filter `accept(id, f)` (42_can_queue.md R186), uninterpreted (log 11). -/
opaque Config.accept : BitVec 32 → Frame → Bool

/-- DMA_OK of a range given by base and size (44_blit.md R243), uninterpreted (log 12). -/
opaque Config.dmaOk : Nat → Nat → Bool

/-- The illustrative transcript T_EX of 95_test_vectors.md (not the vendor's). -/
def Config.exampleTranscript : List TranscriptEntry :=
  [⟨0x11#8, [], 120, .sleepOut⟩, ⟨0xC1#8, [0x08#8], 10, .powerCtl⟩, ⟨0x29#8, [], 20, .displayOn⟩]

/-- The bus configuration of 95_test_vectors.md V-E10 (illustrative but for depth 64 and the three
alerts, which are R7's). -/
def Config.exampleBus : BusConfig :=
  { txPin := 5#8, rxPin := 6#8, mode := 0#8, alerts := 7#3, rxqDepth := 64, txqDepth := 5,
    timing := 0#32, filter := 0#32 }

/-- The data-plane configuration of 95_test_vectors.md program P2 (illustrative). -/
def Config.examplePlane : PlaneConfig :=
  { hsyncPw := 8, hbp := 20, hfp := 20, vsyncPw := 8, vbp := 20, vfp := 20, hRes := 960, vRes := 480,
    pclkHz := 16000000, clkSrc := 0#8, dataWidth := 16, bpp := 16, fbCount := 1, bouncePx := 0,
    placement := true }

/-- The configuration State.reset is built with. DESIGN CHOICE (log 4): R7's values where R7 has one;
for the OPEN parameters the illustrative values of 95_test_vectors.md, and of 92_eei_decisions.md D50
for PAGESEL_CODE. Four values are given by no file of the spec and are the model's own choice:
BLIT_SRC_STRIDE CLAMPED (91_not_in_source.md N11 has a reader assume neither), TU 1, BL_FREQ 0 and
PIXEL_FORMAT 0. Of the acceptance filter and of DMA_OK nothing is fixed. -/
def Config.illustrative : Params :=
  { transcript := Config.exampleTranscript
    slpoutCode := 0x11#8, disponCode := 0x29#8, pageselCode := 0xFF#8
    reqDelay := [(0x11#8, 120), (0x29#8, 20)]
    rstPin := 2#8, csPin := 3#8
    bus := Config.exampleBus, rxqDefault := 5, acceptTable := []
    panelW := 960, panelH := 480, virtW := 240, virtH := 960, offX := 632, offY := 26
    bytesPP := 2, bpp := 16, bufFactor := 5
    plane := Config.examplePlane
    blMax := 100, blFull := 255, blFreq := 0
    srcStride := .clamped, dmaRegions := [], tu := 1, pixelFormat := 0 }

end Sys2Proof
end

