-- ==== Sys2Proof/Syntax.lean ====
section
/-! DEFINITION. The 17 operations of the block (30_encoding.md R118) with their operands.

Numbers (counts, coordinates, sizes) are naturals, as R125 has a model take them; bit patterns the
block only stores or sends (codes, bytes, pin ids, opaque ids, alert masks, addresses) are bit
vectors. WellFormed.lean says that each number fits its field. -/

namespace Sys2Proof

/-- One host operation. -/
inductive Instr where
  /-- WRCMD code (41_sequencer.md R142). -/
  | wrcmd (code : Byte)
  /-- WRDATA byte (R143). -/
  | wrdata (byte : Byte)
  /-- DELAY n (R151). -/
  | delay (n : Nat)
  /-- CSEN (R153). -/
  | csen
  /-- CSDIS (R154). -/
  | csdis
  /-- PRESET (R155). -/
  | preset
  /-- INITSEQ (R156). -/
  | initseq
  /-- SETPIN pin, level (R148). -/
  | setpin (pin : BitVec 8) (level : Bool)
  /-- CANCFG cfg (42_can_queue.md R181). -/
  | cancfg (cfg : BusConfig)
  /-- CANRECV (R190). -/
  | canrecv
  /-- CANALRT (R191). -/
  | canalrt
  /-- DPCFG cfg (43_rgb_timing.md R211). -/
  | dpcfg (cfg : PlaneConfig)
  /-- BLSET req (R224). -/
  | blset (req : Nat)
  /-- BUFALLOC vw, vh, bpp, factor (44_blit.md R241). -/
  | bufalloc (vw vh bpp factor : Nat)
  /-- FLUSHREG vw, vh, ox, oy, rot (R246). -/
  | flushreg (vw vh ox oy rot : Nat)
  /-- FLUSH x1, y1, x2, y2, pixels (R249). -/
  | flush (x1 y1 x2 y2 : Nat) (pixels : BitVec 32)
  /-- BLIT xs, xe, ys, ye, pixels (R254). -/
  | blit (xs xe ys ye : Nat) (pixels : BitVec 32)
deriving DecidableEq, Repr

/-- The operation codes of R118. -/
inductive Opcode where
  | wrcmd | wrdata | delay | csen | csdis | preset | initseq | setpin
  | cancfg | canrecv | canalrt | dpcfg | blset | bufalloc | flushreg | flush | blit
deriving DecidableEq, Repr

/-- The descriptor formats of R117. -/
inductive Format where
  | f0 | f1 | f2 | f3 | fx2 | fx3 | fx4 | fx8
deriving DecidableEq, Repr

/-- The operation an instruction is. -/
def Instr.opcode : Instr → Opcode
  | .wrcmd _ => .wrcmd
  | .wrdata _ => .wrdata
  | .delay _ => .delay
  | .csen => .csen
  | .csdis => .csdis
  | .preset => .preset
  | .initseq => .initseq
  | .setpin _ _ => .setpin
  | .cancfg _ => .cancfg
  | .canrecv => .canrecv
  | .canalrt => .canalrt
  | .dpcfg _ => .dpcfg
  | .blset _ => .blset
  | .bufalloc _ _ _ _ => .bufalloc
  | .flushreg _ _ _ _ _ => .flushreg
  | .flush _ _ _ _ _ => .flush
  | .blit _ _ _ _ _ => .blit

end Sys2Proof
end

