-- ==== Sys2Proof/WellFormed.lean ====
section
/-! DEFINITION. Which terms of `Instr` a descriptor can hold: every number fits its field
(30_encoding.md R115, R119 to R124). Values the spec refuses when the operation runs (a depth of 0,
a rotation request) are well-formed: they decode. -/

namespace Sys2Proof

/-- `n` fits an unsigned field of `k` bits. -/
def fits (k n : Nat) : Bool := n < 2 ^ k

def BusConfig.wf (c : BusConfig) : Bool := fits 16 c.rxqDepth && fits 16 c.txqDepth

def PlaneConfig.wf (c : PlaneConfig) : Bool :=
  fits 16 c.hsyncPw && fits 16 c.hbp && fits 16 c.hfp && fits 16 c.vsyncPw && fits 16 c.vbp
    && fits 16 c.vfp && fits 16 c.hRes && fits 16 c.vRes && fits 32 c.pclkHz && fits 8 c.dataWidth
    && fits 8 c.bpp && fits 8 c.fbCount && fits 32 c.bouncePx

/-- The instruction has an encoding. -/
def Instr.wf : Instr → Bool
  | .wrcmd _ => true
  | .wrdata _ => true
  | .delay n => fits 16 n
  | .csen => true
  | .csdis => true
  | .preset => true
  | .initseq => true
  | .setpin _ _ => true
  | .cancfg c => c.wf
  | .canrecv => true
  | .canalrt => true
  | .dpcfg c => c.wf
  | .blset r => fits 16 r
  | .bufalloc vw vh bpp f => fits 16 vw && fits 16 vh && fits 8 bpp && fits 8 f
  | .flushreg vw vh ox oy rot => fits 16 vw && fits 16 vh && fits 16 ox && fits 16 oy && fits 2 rot
  | .flush x1 y1 x2 y2 _ => fits 16 x1 && fits 16 y1 && fits 16 x2 && fits 16 y2
  | .blit xs xe ys ye _ => fits 16 xs && fits 16 xe && fits 16 ys && fits 16 ye

end Sys2Proof
end

