-- ==== Sys2Proof/Decode.lean ====
section
/-! DEFINITION. Encodings (30_encoding.md): the opcode map, decoding of descriptor memory, the
encoder, the pseudo-instructions, the assembler form, and the control-bus word. -/

namespace Sys2Proof

/-! ### The opcode map (R117, R118) -/

/-- Every operation code, in the order of R118. -/
def Opcode.all : List Opcode :=
  [.wrcmd, .wrdata, .delay, .csen, .csdis, .preset, .initseq, .setpin, .cancfg, .canrecv, .canalrt,
   .dpcfg, .blset, .bufalloc, .flushreg, .flush, .blit]

/-- The OPC column of R118. -/
def Opcode.byte : Opcode → BitVec 8
  | .wrcmd => 0x01#8
  | .wrdata => 0x02#8
  | .delay => 0x03#8
  | .csen => 0x04#8
  | .csdis => 0x05#8
  | .preset => 0x06#8
  | .initseq => 0x07#8
  | .setpin => 0x08#8
  | .cancfg => 0x10#8
  | .canrecv => 0x11#8
  | .canalrt => 0x12#8
  | .dpcfg => 0x20#8
  | .blset => 0x21#8
  | .bufalloc => 0x30#8
  | .flushreg => 0x31#8
  | .flush => 0x32#8
  | .blit => 0x33#8

/-- The format column of R118. -/
def Opcode.format : Opcode → Format
  | .wrcmd => .f1
  | .wrdata => .f1
  | .delay => .f2
  | .csen => .f0
  | .csdis => .f0
  | .preset => .f0
  | .initseq => .f0
  | .setpin => .f3
  | .cancfg => .fx4
  | .canrecv => .f0
  | .canalrt => .f0
  | .dpcfg => .fx8
  | .blset => .f2
  | .bufalloc => .fx2
  | .flushreg => .fx3
  | .flush => .fx3
  | .blit => .fx3

/-- Length in words, header included (R117). -/
def Format.len : Format → Nat
  | .f0 => 1
  | .f1 => 1
  | .f2 => 1
  | .f3 => 1
  | .fx2 => 3
  | .fx3 => 4
  | .fx4 => 5
  | .fx8 => 9

/-- The header bits that must be 0 (R117), as a mask. -/
def Format.headerMask : Format → Word
  | .f0 => 0xFFFFFF00#32
  | .f1 => 0xFFFF0000#32
  | .f2 => 0x0000FF00#32
  | .f3 => 0xFFFE0000#32
  | .fx2 => 0xFFFFFF00#32
  | .fx3 => 0xFFFFFF00#32
  | .fx4 => 0xFFFFFF00#32
  | .fx8 => 0xFFFFFF00#32

/-- The operand-word bits that must be 0 (R119 to R124), a mask for each operand word. -/
def Opcode.operandMasks : Opcode → List Word
  | .cancfg => [0xF8000000#32, 0#32, 0#32, 0#32]
  | .dpcfg => [0#32, 0#32, 0#32, 0#32, 0#32, 0#32, 0#32, 0xFFFFFFFE#32]
  | .bufalloc => [0#32, 0xFFFF0000#32]
  | .flushreg => [0#32, 0#32, 0xFFFFFFFC#32]
  | .flush => [0#32, 0#32, 0#32]
  | .blit => [0#32, 0#32, 0#32]
  | .wrcmd => []
  | .wrdata => []
  | .delay => []
  | .csen => []
  | .csdis => []
  | .preset => []
  | .initseq => []
  | .setpin => []
  | .canrecv => []
  | .canalrt => []
  | .blset => []

/-- len(op) of R34 and R118. -/
def Opcode.len (o : Opcode) : Nat := o.format.len

def Instr.len (i : Instr) : Nat := i.opcode.len

/-- The operation with code byte `b`, if the opcode map has one (R118, R126). -/
def Opcode.ofByte? (b : BitVec 8) : Option Opcode := Opcode.all.find? (fun o => o.byte == b)

/-! ### Fields of a word (R115, R116) -/

/-- `v[15:0]` as a number. -/
def lo16 (v : Word) : Nat := (v.extractLsb' 0 16).toNat

/-- `v[31:16]` as a number. -/
def hi16 (v : Word) : Nat := (v.extractLsb' 16 16).toNat

/-- Byte `k` of a word: `v[8k+7:8k]`. -/
def byteOf (k : Nat) (v : Word) : BitVec 8 := v.extractLsb' (8 * k) 8

/-- A word of two 16-bit fields, `lo` in bits 15..0. -/
def pack16 (lo hi : Nat) : Word := BitVec.ofNat 16 hi ++ BitVec.ofNat 16 lo

/-- A word of four bytes, `b0` in bits 7..0. -/
def pack8 (b0 b1 b2 b3 : BitVec 8) : Word := b3 ++ (b2 ++ (b1 ++ b0))

/-- The header fields OPC, A8, IMM16 of R115. -/
def header (o : Opcode) (a8 : BitVec 8) (imm16 : Nat) : Word := BitVec.ofNat 16 imm16 ++ (a8 ++ o.byte)

/-! ### Decoding (R132) -/

/-- What decoding at a program counter gives: an operation, the end of the program, or the decode
fault of R126, R127 or R128 with its info. R127's "word index" counts inside the descriptor, its header
being 0, and not from the start of descriptor memory as PC does: DESIGN CHOICE, the spec says neither
(log 30). -/
inductive Decoded where
  | instr (i : Instr)
  | endOfProgram
  | illegalOp (h : Word)
  | truncated (pc : Nat)
  | reservedField (index : Nat)
deriving DecidableEq, Repr

/-- The index of the first word with a bit of its mask set, counted from `k` at the first word given;
`decode` gives it the descriptor from its header on, with `k` = 0 (DESIGN CHOICE, log 30). With bits set in several words the
lowest index is reported: DEDUCED from the order of R132 (log 13). -/
def firstReserved : Nat → List Word → List Word → Option Nat
  | k, m :: ms, w :: ws => if w &&& m = 0#32 then firstReserved (k + 1) ms ws else some k
  | _, _, _ => none

/-- The masks of the header and of the operand words. -/
def Opcode.masks (o : Opcode) : List Word := o.format.headerMask :: o.operandMasks

/-- CANCFG's record from its operand words (R119). -/
def busOf (w : Nat → Word) : BusConfig :=
  { txPin := byteOf 0 (w 1), rxPin := byteOf 1 (w 1), mode := byteOf 2 (w 1)
    alerts := (w 1).extractLsb' 24 3
    rxqDepth := lo16 (w 2), txqDepth := hi16 (w 2), timing := w 3, filter := w 4 }

/-- DPCFG's record from its operand words (R120). -/
def planeOf (w : Nat → Word) : PlaneConfig :=
  { hsyncPw := lo16 (w 1), hbp := hi16 (w 1), hfp := lo16 (w 2), vsyncPw := hi16 (w 2)
    vbp := lo16 (w 3), vfp := hi16 (w 3), hRes := lo16 (w 4), vRes := hi16 (w 4)
    pclkHz := (w 5).toNat, clkSrc := byteOf 0 (w 6), dataWidth := (byteOf 1 (w 6)).toNat
    bpp := (byteOf 2 (w 6)).toNat, fbCount := (byteOf 3 (w 6)).toNat, bouncePx := (w 7).toNat
    placement := (w 8).getLsbD 0 }

/-- The operation with its fields (R115 to R125); `w k` is word k of the descriptor. -/
def Opcode.assemble (o : Opcode) (w : Nat → Word) : Instr :=
  match o with
  | .wrcmd => .wrcmd (byteOf 1 (w 0))
  | .wrdata => .wrdata (byteOf 1 (w 0))
  | .delay => .delay (hi16 (w 0))
  | .csen => .csen
  | .csdis => .csdis
  | .preset => .preset
  | .initseq => .initseq
  | .setpin => .setpin (byteOf 1 (w 0)) ((w 0).getLsbD 16)
  | .cancfg => .cancfg (busOf w)
  | .canrecv => .canrecv
  | .canalrt => .canalrt
  | .dpcfg => .dpcfg (planeOf w)
  | .blset => .blset (hi16 (w 0))
  | .bufalloc => .bufalloc (lo16 (w 1)) (hi16 (w 1)) (byteOf 0 (w 2)).toNat (byteOf 1 (w 2)).toNat
  | .flushreg =>
    .flushreg (lo16 (w 1)) (hi16 (w 1)) (lo16 (w 2)) (hi16 (w 2)) ((w 3).extractLsb' 0 2).toNat
  | .flush => .flush (lo16 (w 1)) (hi16 (w 1)) (lo16 (w 2)) (hi16 (w 2)) (w 3)
  | .blit => .blit (lo16 (w 1)) (hi16 (w 1)) (lo16 (w 2)) (hi16 (w 2)) (w 3)

/-- Decode the descriptor at `pc` of descriptor memory `d`, with the checks in the order of R132.
A `pc` past the end of `d` is the end of the program too (log 22), and a must-be-0 bit is reported with
its word's number inside the descriptor, header 0 (DESIGN CHOICE, log 30). -/
def decode (d : List Word) (pc : Nat) : Decoded :=
  match d[pc]? with
  | none => .endOfProgram
  | some h =>
    match Opcode.ofByte? (byteOf 0 h) with
    | none => .illegalOp h
    | some o =>
      if d.length < pc + o.len then .truncated pc
      else
        match firstReserved 0 o.masks (d.drop pc) with
        | some k => .reservedField k
        | none => .instr (o.assemble (fun k => d.getD (pc + k) 0#32))

/-! ### Encoding -/

/-- W1 of CANCFG (R119): alerts in bits 26..24 above the three bytes. -/
def busWord1 (c : BusConfig) : Word := pack8 c.txPin c.rxPin c.mode (c.alerts.setWidth 8)

/-- The words of an instruction, header first (R115 to R124). -/
def encode : Instr → List Word
  | .wrcmd c => [header .wrcmd c 0]
  | .wrdata b => [header .wrdata b 0]
  | .delay n => [header .delay 0#8 n]
  | .csen => [header .csen 0#8 0]
  | .csdis => [header .csdis 0#8 0]
  | .preset => [header .preset 0#8 0]
  | .initseq => [header .initseq 0#8 0]
  | .setpin p l => [header .setpin p l.toNat]
  | .cancfg c =>
    [header .cancfg 0#8 0, busWord1 c, pack16 c.rxqDepth c.txqDepth, c.timing, c.filter]
  | .canrecv => [header .canrecv 0#8 0]
  | .canalrt => [header .canalrt 0#8 0]
  | .dpcfg c =>
    [header .dpcfg 0#8 0, pack16 c.hsyncPw c.hbp, pack16 c.hfp c.vsyncPw, pack16 c.vbp c.vfp,
     pack16 c.hRes c.vRes, BitVec.ofNat 32 c.pclkHz,
     pack8 c.clkSrc (BitVec.ofNat 8 c.dataWidth) (BitVec.ofNat 8 c.bpp) (BitVec.ofNat 8 c.fbCount),
     BitVec.ofNat 32 c.bouncePx, BitVec.ofNat 32 c.placement.toNat]
  | .blset r => [header .blset 0#8 r]
  | .bufalloc vw vh bpp f =>
    [header .bufalloc 0#8 0, pack16 vw vh, pack8 (BitVec.ofNat 8 bpp) (BitVec.ofNat 8 f) 0#8 0#8]
  | .flushreg vw vh ox oy rot =>
    [header .flushreg 0#8 0, pack16 vw vh, pack16 ox oy, BitVec.ofNat 32 rot]
  | .flush x1 y1 x2 y2 px => [header .flush 0#8 0, pack16 x1 y1, pack16 x2 y2, px]
  | .blit xs xe ys ye px => [header .blit 0#8 0, pack16 xs xe, pack16 ys ye, px]

/-- Descriptor memory holding a program. -/
def encodeProgram (p : List Instr) : List Word := p.flatMap encode

/-! ### The host's bit numbering -/

/-- The `k` words of the number `w`, its bits 31..0 first. -/
def wordsOfNat : Nat → Nat → List Word
  | 0, _ => []
  | k + 1, w => BitVec.ofNat 32 w :: wordsOfNat k (w / 2 ^ 32)

/-- The longest descriptor has nine words (R117). -/
def maxLen : Nat := 9

/-- The words the host's number stands for: `nbits` bits of `w`, zeros above, nine words in all. -/
def tableWords (nbits w : Nat) : List Word := wordsOfNat maxLen (w % 2 ^ nbits)

/-- The instruction the decoder reads from the table's bits `w`. -/
def decodeTableWord (nbits w : Nat) : Option Instr :=
  match decode (tableWords nbits w) 0 with
  | .instr i => some i
  | _ => none

/-! ### Pseudo-instructions (R131) -/

/-- NOP is DELAY 0. -/
def pseudoNop : List Instr := [.delay 0]

/-- WRCMDD c, d1, ..., dk. -/
def pseudoWrcmdd (c : Byte) (ds : List Byte) : List Instr := .wrcmd c :: ds.map .wrdata

/-- ENTRY c, [d1, ..., dk], n. -/
def pseudoEntry (c : Byte) (ds : List Byte) (n : Nat) : List Instr :=
  pseudoWrcmdd c ds ++ (if n > 0 then [.delay n] else [])

/-- BRINGUP. -/
def pseudoBringup : List Instr := [.preset, .initseq]

/-! ### Assembler form (R130) -/

/-- The alerts of R130: QF, BE, EP joined by a bar, or 0. -/
def alertsAsm (a : BitVec 3) : String :=
  let names := (if a.getLsbD 0 then ["QF"] else []) ++ (if a.getLsbD 1 then ["BE"] else [])
    ++ (if a.getLsbD 2 then ["EP"] else [])
  if names.isEmpty then "0" else "|".intercalate names

/-- A comma-separated operand list after a mnemonic. -/
def asmLine (mnemonic : String) (operands : List String) : String :=
  mnemonic ++ " " ++ ", ".intercalate operands

def asmKey (k : String) (n : Nat) : String := k ++ "=" ++ toString n

/-- One line of assembler for an instruction, numbers in decimal. -/
def Instr.asm : Instr → String
  | .wrcmd c => asmLine "WRCMD" [toString c.toNat]
  | .wrdata b => asmLine "WRDATA" [toString b.toNat]
  | .delay n => asmLine "DELAY" [toString n]
  | .csen => "CSEN"
  | .csdis => "CSDIS"
  | .preset => "PRESET"
  | .initseq => "INITSEQ"
  | .setpin p l => asmLine "SETPIN" [toString p.toNat, toString l.toNat]
  | .cancfg c =>
    asmLine "CANCFG" [asmKey "tx" c.txPin.toNat, asmKey "rx" c.rxPin.toNat, asmKey "mode" c.mode.toNat,
      "alerts=" ++ alertsAsm c.alerts, asmKey "rxq" c.rxqDepth, asmKey "txq" c.txqDepth,
      asmKey "timing" c.timing.toNat, asmKey "filter" c.filter.toNat]
  | .canrecv => "CANRECV"
  | .canalrt => "CANALRT"
  | .dpcfg c =>
    asmLine "DPCFG" [asmKey "hpw" c.hsyncPw, asmKey "hbp" c.hbp, asmKey "hfp" c.hfp,
      asmKey "vpw" c.vsyncPw, asmKey "vbp" c.vbp, asmKey "vfp" c.vfp, asmKey "hres" c.hRes,
      asmKey "vres" c.vRes, asmKey "pclk" c.pclkHz, asmKey "clksrc" c.clkSrc.toNat,
      asmKey "width" c.dataWidth, asmKey "bpp" c.bpp, asmKey "fbs" c.fbCount,
      asmKey "bounce" c.bouncePx, asmKey "place" c.placement.toNat]
  | .blset r => asmLine "BLSET" [toString r]
  | .bufalloc vw vh bpp f =>
    asmLine "BUFALLOC" [asmKey "vw" vw, asmKey "vh" vh, asmKey "bpp" bpp, asmKey "factor" f]
  | .flushreg vw vh ox oy rot =>
    asmLine "FLUSHREG" [asmKey "vw" vw, asmKey "vh" vh, asmKey "offx" ox, asmKey "offy" oy,
      asmKey "rot" rot]
  | .flush x1 y1 x2 y2 px =>
    asmLine "FLUSH" [toString x1, toString y1, toString x2, toString y2, toString px.toNat]
  | .blit xs xe ys ye px =>
    asmLine "BLIT" [toString xs, toString xe, toString ys, toString ye, toString px.toNat]

/-! ### The control-bus word (R111, R112) -/

/-- The tag of a control-bus word. -/
inductive Tag where
  | command | data
deriving DecidableEq, Repr

/-- W[8], the bit DC: 0 a command, 1 data. -/
def Tag.bit : Tag → BitVec 1
  | .command => 0#1
  | .data => 1#1

/-- The 9-bit word W of R111. -/
def busWord (t : Tag) (b : Byte) : BitVec 9 := t.bit ++ b

/-- The bits on the wire in sending order (R112): DC, then B[7] down to B[0]. No rule of the model
depends on it. -/
def wireBits (w : BitVec 9) : List Bool := (List.range 9).map (fun k => w.getLsbD (8 - k))

end Sys2Proof
end

