-- ==== Sys2Proof/Machine/State.lean ====
section
/-! DEFINITION. The state of the block as plain data (10_state.md), the model's own stops, and reset.

Names follow the spec's; a docstring gives the rule. Fields marked MODEL'S OWN are not the spec's. -/

namespace Sys2Proof.Machine

/-! ### The model's stops -/

/-- Why no step of the machine exists: no agent is enabled (60_exceptions.md R289). Raised by `step`
alone, never by an instruction. Safe: the machine does nothing more in any of the three cases (log 8). -/
inductive Fault where
  /-- HOST was stopped by a fault (FAULT is not none) and no other agent is enabled. Safe. -/
  | stoppedByFault
  /-- HOST was stopped by a refusal (QMARK is not none) and no other agent is enabled. Safe. -/
  | stoppedByRefusal
  /-- PC has reached the end of descriptor memory and no other agent is enabled: END. Safe. -/
  | endOfProgram
deriving DecidableEq, Repr

/-- Why the model gives no meaning to a step. Raised by `step` before anything runs (00_scope.md R8,
60_exceptions.md R281), never by an instruction. Safe: nothing runs (log 9). -/
inductive Refusal where
  /-- Q_PARAM before the run: the parameter set fails the checks of R8 (or R15). Safe. -/
  | badParameters
  /-- Q_TRANSCRIPT before the run: INIT_TRANSCRIPT fails the check of R14. Safe. -/
  | badTranscript
  /-- An instruction that has no meaning yet; no arm of `exec` answers it. Safe. -/
  | notModelled (mnemonic : String)
deriving DecidableEq, Repr

/-! ### FAULT, QMARK, status codes -/

/-- The fault codes of R272. -/
inductive FaultCode where
  | illegalOp | reservedField | truncated | panelNotReady | delayHazard | csPairing | dpBeforeSeq
  | blitNoPanel | flushUnregistered | regWithoutBuffers | blBeforePanel | unwrittenRead | badPixels
  | misaligned
deriving DecidableEq, Repr

/-- The contents of FAULT (10_state.md R36): code, the PC of the operation, and the info of R272. -/
structure FaultRecord where
  code : FaultCode
  pc : Nat
  info : Nat
deriving DecidableEq, Repr

/-- The refusal reasons of R281, the values of QMARK. -/
inductive RefuseReason where
  | transcript | param | canReconfig | zeroDepth | dpReconfig | geometry | realloc | zeroFactor
  | zeroSize | rotation | reregister
deriving DecidableEq, Repr

/-- The statuses of R271. -/
inductive Status where
  | ok | installFailed | startFailed | allocationFailed | handleCreationFailed | empty
deriving DecidableEq, Repr

/-! ### SEQ (10_state.md R35, R39 to R43) -/

/-- The level of an output line: 0, 1 or, before it is first driven, X (R39). -/
inductive Level where
  | lo | hi | x
deriving DecidableEq, Repr

/-- An event of LOG (R40). A pin level is a Bool: false 0, true 1. -/
inductive Event where
  | word (t : Nat) (tag : Tag) (byte : Byte) (seen : Bool)
  | edge (t : Nat) (pin : BitVec 8) (level : Bool)
  | delay (t n d : Nat)
deriving DecidableEq, Repr

structure SeqState where
  /-- rst_level, R39 -/
  rstLevel : Level
  /-- cs_level, R39 -/
  csLevel : Level
  /-- LOG, R40 -/
  log : List Event
  /-- cs_held, R41 -/
  csHeld : Bool
  /-- busy, R41 -/
  busy : Bool
  /-- seq_done, R41 -/
  seqDone : Bool
  /-- in_initseq, R41 -/
  inInitseq : Bool
  /-- rst_low_at, R42 -/
  rstLowAt : Option Nat
  /-- panel_ready_at, R42 -/
  panelReadyAt : Option Nat
  /-- quiet_until, R43 -/
  quietUntil : Nat
  /-- cur_req, R43 -/
  curReq : Nat
  /-- settle_until, R43 -/
  settleUntil : Nat
  /-- TI, R35 -/
  ti : Nat
deriving DecidableEq, Repr

/-! ### CANQ (10_state.md R45 to R49) -/

/-- can_state, R45. -/
inductive CanPhase where
  | uninstalled | installed | running
deriving DecidableEq, Repr

structure CanState where
  /-- can_state, R45 -/
  phase : CanPhase
  /-- can_tried, R45 -/
  tried : Bool
  /-- CAN_TX_PIN, R46 -/
  txPin : BitVec 8
  /-- CAN_RX_PIN, R46 -/
  rxPin : BitVec 8
  /-- CAN_MODE, R46 -/
  mode : BitVec 8
  /-- CAN_RXQ_DEPTH, R46 -/
  rxqDepth : BitVec 16
  /-- CAN_TXQ_DEPTH, R46 -/
  txqDepth : BitVec 16
  /-- CAN_TIMING, R46 -/
  timing : BitVec 32
  /-- CAN_FILTER, R46 -/
  filter : BitVec 32
  /-- CAN_ALERT_EN, R46, R47 -/
  alertEn : BitVec 3
  /-- CAN_ALERT_STATUS, R47 -/
  alertStatus : BitVec 3
  /-- rxq, R48, oldest first -/
  rxq : List Frame
  /-- txq, R48 -/
  txq : List Frame
  /-- dropped, R49 -/
  dropped : Nat
deriving DecidableEq, Repr

/-! ### Memory -/

/-- Bytes by address: a list of (address, byte), addresses strictly rising. An address that is not
listed is "unwritten" (10_state.md R53, R59). -/
abbrev Memory := List Host.Cell

/-- One data-plane frame buffer fb[k] (R53): its size in bytes and the bytes written so far. -/
structure FrameBuf where
  size : Nat
  cells : Memory
deriving DecidableEq, Repr

/-- scan_seen (R54) as data: the shown buffer's bytes when the open frame began, and the writes to it
since, oldest first. `seenAt` of Machine/Operands.lean gives the set of one byte index (log 16). -/
structure ScanSeen where
  base : Memory
  added : List (Nat × Byte)
deriving DecidableEq, Repr

/-! ### RGBTC (10_state.md R51 to R55) -/

/-- dp_state, R52. -/
inductive DpPhase where
  | unconfigured | running | failed
deriving DecidableEq, Repr

structure RgbState where
  /-- DP_HSYNC_PW, R51 -/
  hsyncPw : BitVec 16
  /-- DP_HBP, R51 -/
  hbp : BitVec 16
  /-- DP_HFP, R51 -/
  hfp : BitVec 16
  /-- DP_VSYNC_PW, R51 -/
  vsyncPw : BitVec 16
  /-- DP_VBP, R51 -/
  vbp : BitVec 16
  /-- DP_VFP, R51 -/
  vfp : BitVec 16
  /-- DP_H_RES, R51 -/
  hRes : BitVec 16
  /-- DP_V_RES, R51 -/
  vRes : BitVec 16
  /-- DP_PCLK_HZ, R51 -/
  pclkHz : BitVec 32
  /-- DP_CLK_SRC, R51 -/
  clkSrc : BitVec 8
  /-- DP_DATA_WIDTH, R51 -/
  dataWidth : BitVec 8
  /-- DP_BPP, R51 -/
  bpp : BitVec 8
  /-- DP_FB_COUNT, R51 -/
  fbCount : BitVec 8
  /-- DP_BOUNCE_PX, R51 -/
  bouncePx : BitVec 32
  /-- DP_PLACEMENT, R51 -/
  placement : BitVec 1
  /-- dp_state, R52 -/
  phase : DpPhase
  /-- fb[k], R53 -/
  fb : List FrameBuf
  /-- scan_open, R54 -/
  scanOpen : Bool
  /-- scan_sel, R54 -/
  scanSel : Nat
  /-- scan_seen, R54 -/
  scanSeen : ScanSeen
  /-- frames, R54, oldest first; a frame is its bytes in the order of their indexes (log 16) -/
  frames : List (List Byte)
  /-- bl_duty, R55 -/
  blDuty : Nat
  /-- bl_set, R55 -/
  blSet : Bool
deriving DecidableEq, Repr

/-! ### BLIT (10_state.md R56 to R58) -/

/-- alloc_state, R56. -/
inductive AllocState where
  | none | ok | failed
deriving DecidableEq, Repr

/-- A window with inclusive ends, in the blit's argument order (44_blit.md R250, R254). -/
structure Window where
  xs : Nat
  xe : Nat
  ys : Nat
  ye : Nat
deriving DecidableEq, Repr

structure BlitState where
  /-- alloc_state, R56 -/
  allocState : AllocState
  /-- buf1, R56 -/
  buf1 : BitVec 32
  /-- buf2, R56 -/
  buf2 : BitVec 32
  /-- buf_size, R56 -/
  bufSize : Nat
  /-- alloc_vw, R56 -/
  allocVw : Nat
  /-- alloc_vh, R56 -/
  allocVh : Nat
  /-- gfx_aborted, R56 -/
  gfxAborted : Bool
  /-- flush_registered, R57 -/
  flushRegistered : Bool
  /-- reg_count, R57 -/
  regCount : Nat
  /-- VIRT_W_R, R57 -/
  virtW : BitVec 16
  /-- VIRT_H_R, R57 -/
  virtH : BitVec 16
  /-- OFF_X_R, R57 -/
  offX : BitVec 16
  /-- OFF_Y_R, R57 -/
  offY : BitVec 16
  /-- blit_calls, R58 -/
  blitCalls : Nat
  /-- completions, R58 -/
  completions : Nat
  /-- flush_log, R58 -/
  flushLog : List (Window × Nat)
deriving DecidableEq, Repr

/-! ### The whole state (R30) -/

structure State where
  /-- MODEL'S OWN: the implementation parameters (00_scope.md R7), which no step changes (log 4). -/
  cfg : Params
  /-- D, descriptor memory (20_memory.md R81). -/
  desc : List Word
  /-- PC, R34 -/
  pc : Nat
  /-- RES, R32 -/
  res : BitVec 8
  /-- RVAL, R33 -/
  rval : BitVec 32
  /-- RFRAME, R33 -/
  rframe : Option Frame
  /-- FAULT, R36 -/
  fault : Option FaultRecord
  /-- QMARK, R37 -/
  qmark : Option RefuseReason
  /-- now, R38 -/
  now : Nat
  seq : SeqState
  can : CanState
  rgb : RgbState
  blit : BlitState
  /-- mem, system memory, R59 -/
  mem : Memory
  /-- diag, R60 -/
  diag : List Status
  /-- MODEL'S OWN: how many environment draws have been taken (log 2). -/
  draws : Nat
  /-- MODEL'S OWN: draws the environment has fixed in advance, the next one first (log 2). -/
  script : List Nat
deriving DecidableEq, Repr

/-! ### Reset (10_state.md R61, 70_reset_and_hazards.md R300)

A register whose reset value R61 writes X is 0 here (none for RFRAME): DESIGN CHOICE, unsafe (log 5);
`blockReset` of Machine/Ops.lean takes its value as an argument.
rst_level and cs_level hold X itself. -/

/-- SEQ after reset. -/
def SeqState.reset : SeqState :=
  { rstLevel := .x, csLevel := .x, log := [], csHeld := false, busy := false, seqDone := false
    inInitseq := false, rstLowAt := none, panelReadyAt := none, quietUntil := 0, curReq := 0
    settleUntil := 0, ti := 0 }

/-- CANQ after reset. -/
def CanState.reset : CanState :=
  { phase := .uninstalled, tried := false, txPin := 0#8, rxPin := 0#8, mode := 0#8, rxqDepth := 0#16
    txqDepth := 0#16, timing := 0#32, filter := 0#32, alertEn := 0#3, alertStatus := 0#3
    rxq := [], txq := [], dropped := 0 }

/-- RGBTC after reset. -/
def RgbState.reset : RgbState :=
  { hsyncPw := 0#16, hbp := 0#16, hfp := 0#16, vsyncPw := 0#16, vbp := 0#16, vfp := 0#16
    hRes := 0#16, vRes := 0#16, pclkHz := 0#32, clkSrc := 0#8, dataWidth := 0#8, bpp := 0#8
    fbCount := 0#8, bouncePx := 0#32, placement := 0#1, phase := .unconfigured, fb := []
    scanOpen := false, scanSel := 0, scanSeen := ⟨[], []⟩, frames := [], blDuty := 0, blSet := false }

/-- BLIT after reset. -/
def BlitState.reset : BlitState :=
  { allocState := .none, buf1 := 0#32, buf2 := 0#32, bufSize := 0, allocVw := 0, allocVh := 0
    gfxAborted := false, flushRegistered := false, regCount := 0, virtW := 0#16, virtH := 0#16
    offX := 0#16, offY := 0#16, blitCalls := 0, completions := 0, flushLog := [] }

/-- The state right after block reset of a block built with parameters `cfg`, with program `desc` in
descriptor memory, the launch's pixel data `mem` (20_memory.md R82), and the draws `script` fixed in
advance. -/
def State.launch (cfg : Params) (desc : List Word) (mem : Memory) (script : List Nat) : State :=
  { cfg := cfg, desc := desc, pc := 0, res := 0#8, rval := 0#32, rframe := none, fault := none
    qmark := none, now := 0, seq := SeqState.reset, can := CanState.reset, rgb := RgbState.reset, blit := BlitState.reset
    mem := mem, diag := [], draws := 0, script := script }

/-- The block after reset with no program, no launch data and no draw fixed: the configuration is the
illustrative one of 95_test_vectors.md (DESIGN CHOICE, log 4). -/
def State.reset : State := State.launch Config.illustrative [] [] []

end Sys2Proof.Machine
end

