-- ==== Sys2Proof/Machine/Params.lean ====
section
/-! DEFINITION. What the rules compute from the implementation parameters: the delay minima, the
checks that come before a run, REQ_DELAY, the acceptance filter and DMA_OK (00_scope.md R7 to R15). -/

namespace Sys2Proof.Machine

/-- T_RST_LOW, minimum time reset is held low (R7). -/
def tRstLow : Nat := 10
/-- T_RST_WAIT, minimum time after reset release before commands (R7). -/
def tRstWait : Nat := 50
/-- T_CS, settle delay after each chip-select transition (R7). -/
def tCs : Nat := 10
/-- T_MID (R7). -/
def tMid : Nat := 10
/-- T_SLPOUT (R7). -/
def tSlpout : Nat := 120
/-- T_PWRCTL (R7). -/
def tPwrctl : Nat := 10
/-- T_DISPON (R7). -/
def tDispon : Nat := 20
/-- BUF_ALIGN, draw-buffer alignment in bytes (R7, 20_memory.md R89). -/
def bufAlign : Nat := 32
/-- The number of system-memory addresses, 2^ADDR_W with ADDR_W = 32 (R7, 20_memory.md R82). -/
def addrSpace : Nat := 4294967296

/-- ROLE_MIN (R13). -/
def roleMin : Role → Nat
  | .plain => 0
  | .midDelay => tMid
  | .sleepOut => tSlpout
  | .powerCtl => tPwrctl
  | .displayOn => tDispon

/-- REQ_DELAY(c): the minimum delay after a command the host issues; 0 where nothing is known (R15). -/
def reqDelayOf (p : Params) (c : Byte) : Nat := (p.reqDelay.lookup c).getD 0

/-- wf(T) of R14. -/
def transcriptOk (p : Params) : Bool :=
  !p.transcript.isEmpty
    && p.transcript.any (fun e => e.role == .sleepOut)
    && p.transcript.any (fun e => e.role == .powerCtl)
    && p.transcript.any (fun e => e.role == .displayOn)
    && p.transcript.all (fun e => decide (roleMin e.role ≤ e.postDelay))
    && p.transcript.all (fun e => e.role != .sleepOut || e.cmd == p.slpoutCode)
    && p.transcript.all (fun e => e.role != .displayOn || e.cmd == p.disponCode)

/-- The parameter constraints of R8 (but for the transcript), with REQ_DELAY's of R15 and
BYTES_PP ≥ 1 (log 9). -/
def parametersOk (p : Params) : Bool :=
  decide (1 ≤ p.panelW) && decide (1 ≤ p.panelH) && decide (1 ≤ p.bufFactor)
    && decide (1 ≤ p.bus.rxqDepth) && decide (p.bpp = 8 * p.bytesPP) && decide (1 ≤ p.bytesPP)
    && decide (tSlpout ≤ reqDelayOf p p.slpoutCode) && decide (tDispon ≤ reqDelayOf p p.disponCode)

/-- Why a model refuses to run with these parameters, if it does (R8, R14, 60_exceptions.md R281).
DESIGN CHOICE (log 9): where a set fails both a numeric constraint (R8, R15) and the transcript check
(R14), the spec gives no order, and this answers badParameters. -/
def paramsRefusal (p : Params) : Option Refusal :=
  if !parametersOk p then some .badParameters
  else if !transcriptOk p then some .badTranscript
  else none

/-- accept(id, f) of 42_can_queue.md R186: as far as the configuration knows it, else the free
`Config.accept` (log 11). -/
def accepts (p : Params) (id : BitVec 32) (f : Frame) : Bool :=
  (p.acceptTable.lookup (id, f)).getD (Config.accept id f)

/-- DMA_OK of the range of `size` bytes at `base` (44_blit.md R243): inside a region the
configuration knows, or else as the free `Config.dmaOk` says (log 12). -/
def dmaCapable (p : Params) (base size : Nat) : Bool :=
  p.dmaRegions.any (fun r => decide (r.1 ≤ base) && decide (base + size ≤ r.1 + r.2))
    || Config.dmaOk base size

end Sys2Proof.Machine
end

