-- ==== Sys2Proof/Machine/Flags.lean ====
section
/-! DEFINITION. Status codes, alert bits and the numbers of the fault codes (60_exceptions.md R271,
R272, R279; 10_state.md R32, R47, R50, R60). The block has no arithmetic flags. -/

namespace Sys2Proof.Machine

/-- The number of a status in RES (R271). -/
def Status.code : Status → BitVec 8
  | .ok => 0#8
  | .installFailed => 1#8
  | .startFailed => 2#8
  | .allocationFailed => 3#8
  | .handleCreationFailed => 4#8
  | .empty => 5#8

/-- The number of a fault code (R272). -/
def FaultCode.number : FaultCode → Nat
  | .illegalOp => 1
  | .reservedField => 2
  | .truncated => 3
  | .panelNotReady => 4
  | .delayHazard => 5
  | .csPairing => 6
  | .dpBeforeSeq => 7
  | .blitNoPanel => 8
  | .flushUnregistered => 9
  | .regWithoutBuffers => 10
  | .blBeforePanel => 11
  | .unwrittenRead => 12
  | .badPixels => 13
  | .misaligned => 14

/-- `status <- st` (R10): write RES. -/
def setStatus (st : Status) (s : State) : State := { s with res := st.code }

/-- A failure status: RES and an entry of diag (10_state.md R60). -/
def reportFailure (st : Status) (s : State) : State :=
  { s with res := st.code, diag := s.diag ++ [st] }

/-- The alerts of 10_state.md R47. -/
inductive Alert where
  | queueFull | busError | errorPassive
deriving DecidableEq, Repr

/-- The bit of an alert in CAN_ALERT_EN and CAN_ALERT_STATUS (R47). -/
def Alert.mask : Alert → BitVec 3
  | .queueFull => 1#3
  | .busError => 2#3
  | .errorPassive => 4#3

/-- An alert's event: its status bit is set if its enable bit is 1, and nothing else (R47, R279). -/
def raiseAlert (a : Alert) (c : CanState) : CanState :=
  { c with alertStatus := c.alertStatus ||| (c.alertEn &&& a.mask) }

/-- can_irq of 10_state.md R50. -/
def canIrq (s : State) : Bool := s.can.alertStatus != 0#3

end Sys2Proof.Machine
end

