-- ==== Sys2Proof/Machine/Operands.lean ====
section
/-! DEFINITION. What the rules compute from operands and registers without changing state: blit
windows and addresses (44_blit.md), the allocation size and legal addresses, the geometry check and
the backlight duty (43_rgb_timing.md), the set of values a scanned byte may show, and the word list
of the transfer log. All arithmetic is on naturals, with no wrap (00_scope.md R9). -/

namespace Sys2Proof.Machine

/-! ### Control-bus words of a log (10_state.md R40) -/

/-- The (tag, byte) of a Word event. -/
def Event.word? : Event → Option (Tag × Byte)
  | .word _ tag b _ => some (tag, b)
  | .edge _ _ _ => none
  | .delay _ _ _ => none

/-- words(LOG). -/
def wordsOf (log : List Event) : List (Tag × Byte) := log.filterMap Event.word?

/-- An event without its time and its drawn duration: what two replays of a transcript have in common
(41_sequencer.md R158). -/
inductive EventShape where
  | word (tag : Tag) (byte : Byte) (seen : Bool)
  | edge (pin : BitVec 8) (level : Bool)
  | delay (n : Nat)
deriving DecidableEq, Repr

def Event.shape : Event → EventShape
  | .word _ tag b seen => .word tag b seen
  | .edge _ pin l => .edge pin l
  | .delay _ n _ => .delay n

/-- The words of one transcript entry, in order (41_sequencer.md R157). -/
def entryWords (e : TranscriptEntry) : List (Tag × Byte) :=
  (.command, e.cmd) :: e.data.map (fun b => (.data, b))

/-- The words of a transcript, in order (R157). -/
def transcriptWords (t : List TranscriptEntry) : List (Tag × Byte) := t.flatMap entryWords

/-- The sum of the post-delays of a transcript (R163). -/
def transcriptDelay (t : List TranscriptEntry) : Nat := (t.map TranscriptEntry.postDelay).sum

/-! ### Blit windows (44_blit.md R250, R254 to R259, R263) -/

/-- PhysicalWindow: the region moved by the registered offset, ends still inclusive (R250). -/
def physicalWindow (offX offY : BitVec 16) (x1 y1 x2 y2 : Nat) : Window :=
  { xs := x1 + offX.toNat, xe := x2 + offX.toNat, ys := y1 + offY.toNat, ye := y2 + offY.toNat }

/-- The exclusive, clamped end of an inclusive end: min(e + 1, dim) (R255, R256). -/
def clampEnd (dim e : Nat) : Nat := min (e + 1) dim

/-- ex of R254. -/
def clampX (p : Params) (w : Window) : Nat := clampEnd p.panelW w.xe

/-- ey of R254. -/
def clampY (p : Params) (w : Window) : Nat := clampEnd p.panelH w.ye

/-- The degenerate guard of R257. -/
def degenerate (p : Params) (w : Window) : Bool :=
  decide (clampX p w ≤ w.xs) || decide (clampY p w ≤ w.ys)

/-- The source row stride in pixels (R259). -/
def strideOf (p : Params) (w : Window) : Nat :=
  match p.srcStride with
  | .clamped => clampX p w - w.xs
  | .requested => w.xe + 1 - w.xs

/-- src(x, y) of R254. -/
def srcAddr (p : Params) (w : Window) (px x y : Nat) : Nat :=
  px + ((y - w.ys) * strideOf p w + (x - w.xs)) * p.bytesPP

/-- fbidx(x, y, j) of R263, with the row length DP_H_RES. -/
def fbIndex (hRes bytesPP x y j : Nat) : Nat := (y * hRes + x) * bytesPP + j

/-- The `n` naturals from `a` on. -/
def natsFrom (a n : Nat) : List Nat := (List.range n).map (fun k => a + k)

/-- The (source address, frame-buffer index) of each byte of the clamped window, row by row (R254). -/
def transferPlan (p : Params) (hRes : Nat) (w : Window) (px : Nat) : List (Nat × Nat) :=
  (natsFrom w.ys (clampY p w - w.ys)).flatMap (fun y =>
    (natsFrom w.xs (clampX p w - w.xs)).flatMap (fun x =>
      (List.range p.bytesPP).map (fun j =>
        (srcAddr p w px x y + j, fbIndex hRes p.bytesPP x y j))))

/-- n of R251: the bytes of an inclusive region, 0 if it is empty. -/
def regionBytes (p : Params) (x1 y1 x2 y2 : Nat) : Nat :=
  if x1 ≤ x2 ∧ y1 ≤ y2 then (x2 - x1 + 1) * (y2 - y1 + 1) * p.bytesPP else 0

/-- pixels_ok of R251: the pixel range lies in one of the two draw buffers. -/
def pixelsOk (p : Params) (b : BlitState) (px x1 y1 x2 y2 : Nat) : Bool :=
  let n := regionBytes p x1 y1 x2 y2
  [b.buf1.toNat, b.buf2.toNat].any (fun a => decide (a ≤ px) && decide (px + n ≤ a + b.bufSize))

/-! ### Draw-buffer allocation (44_blit.md R242, R243) -/

/-- buf_size = floor(vw × vh × bpp / f), exact product (R242). -/
def bufferSize (vw vh bpp f : Nat) : Nat := vw * vh * bpp / f

/-- LegalPairs(size) of R243. -/
def legalPair (p : Params) (size a1 a2 : Nat) : Bool :=
  decide (a1 ≠ 0) && decide (a2 ≠ 0) && decide (a1 % bufAlign = 0) && decide (a2 % bufAlign = 0)
    && decide (a1 + size ≤ addrSpace) && decide (a2 + size ≤ addrSpace)
    && (decide (a1 + size ≤ a2) || decide (a2 + size ≤ a1))
    && dmaCapable p a1 size && dmaCapable p a2 size

/-! ### Data plane (43_rgb_timing.md R214, R215, R223, R224) -/

/-- geom_ok of R214. -/
def geomOk (p : Params) (c : PlaneConfig) : Bool :=
  decide (c.hRes = p.panelW) && decide (c.vRes = p.panelH) && decide (c.bpp = p.bpp)
    && decide (1 ≤ c.fbCount) && decide (1 ≤ c.hsyncPw) && decide (1 ≤ c.vsyncPw)
    && decide (1 ≤ c.pclkHz) && decide (1 ≤ c.dataWidth)

/-- The size in bytes of a frame buffer: h_res × v_res × BYTES_PP (R215). -/
def frameBytes (hRes vRes bytesPP : Nat) : Nat := hRes * vRes * bytesPP

/-- The backlight duty of R224: (min(req, BL_MAX) × BL_FULL) / BL_MAX, floor division. -/
def backlightDuty (p : Params) (req : Nat) : Nat := min req p.blMax * p.blFull / p.blMax

/-- The frame period in pixel clocks (R223). No rule depends on it. -/
def framePeriod (r : RgbState) : Nat :=
  (r.hsyncPw.toNat + r.hbp.toNat + r.hRes.toNat + r.hfp.toNat)
    * (r.vsyncPw.toNat + r.vbp.toNat + r.vRes.toNat + r.vfp.toNat)

/-! ### The bring-up program (70_reset_and_hazards.md R305) -/

/-- The recommended bring-up program of R305, its operands taken from the parameters; `flushes` are the
regions (x1, y1, x2, y2) and pixel pointers of its last line, FLUSH, repeated. -/
def recommendedBringUp (p : Params) (brightness : Nat)
    (flushes : List (Nat × Nat × Nat × Nat × BitVec 32)) : List Instr :=
  [.cancfg p.bus, .preset, .initseq,
   .dpcfg { p.plane with hRes := p.panelW, vRes := p.panelH, bpp := p.bpp },
   .blset brightness, .bufalloc p.virtW p.virtH p.bytesPP p.bufFactor,
   .flushreg p.virtW p.virtH p.offX p.offY 0]
    ++ flushes.map (fun (x1, y1, x2, y2, px) => .flush x1 y1 x2 y2 px)

end Sys2Proof.Machine
end

