-- ==== Sys2Proof/Machine/Ops.lean ====
section
/-! DEFINITION. The shared operations: environment draws, memory, the frame buffer and the steps of SCAN,
the steps of CANENV, the steps of both inside a descriptor, the sub-steps of an operation and its end
(completing, raising a fault, refusing), waiting, the output lines, the control-bus word, block reset
and loading. -/

namespace Sys2Proof.Machine

/-! ### Environment draws (00_scope.md R10, 60_exceptions.md R288; log 2) -/

/-- The value of the next draw: what the environment has fixed in advance, else the free value. -/
def drawVal (s : State) : Nat :=
  match s.script with
  | [] => Config.draw s.draws
  | n :: _ => n

/-- The state after a draw. -/
def afterDraw (s : State) : State := { s with draws := s.draws + 1, script := s.script.tail }

/-- A draw from {true, false}: an odd number is true. -/
def drawBool (s : State) : Bool := drawVal s % 2 == 1

/-- One of several, by a draw; the only one there is, without a draw (R278; log 3). -/
def chosen {α : Type} (as : List α) (s : State) : Option α :=
  match as with
  | [] => none
  | [a] => some a
  | as => as[drawVal s % as.length]?

/-- The state after that choice. -/
def afterChoice {α : Type} (as : List α) (s : State) : State :=
  match as with
  | [] => s
  | [_] => s
  | _ => afterDraw s

/-! ### Memory (10_state.md R53, R59; 00_scope.md R10) -/

/-- The byte at `a`, or none where nothing has written it. -/
def Memory.read : Memory → Nat → Option Byte
  | [], _ => none
  | (k, b) :: m, a => if k = a then some b else Memory.read m a

/-- Write a byte, keeping the addresses rising. -/
def Memory.write : Memory → Nat → Byte → Memory
  | [], a, v => [(a, v)]
  | (k, b) :: m, a, v =>
    if a < k then (a, v) :: (k, b) :: m
    else if a = k then (a, v) :: m
    else (k, b) :: Memory.write m a v

/-- Every address of the list is over `lo`, and they rise. -/
def Memory.above (lo : Nat) : Memory → Bool
  | [] => true
  | (k, _) :: m => decide (lo < k) && Memory.above k m

/-- The canonical form: addresses strictly rising. (Every listed byte is a written one, and an
unlisted address is "unwritten", so no entry equals what an unlisted address reads as.) -/
def Memory.wf : Memory → Bool
  | [] => true
  | (k, _) :: m => Memory.above k m

/-- Every address is under `n`. -/
def Memory.under (n : Nat) (m : Memory) : Bool := m.all (fun c => decide (c.1 < n))

/-- One byte of system memory. An address of 2^32 or more is no byte of it and reads as never
written (20_memory.md R82; log 15). -/
def memByte (m : Memory) (a : Nat) : Option Byte := if a < addrSpace then m.read a else none

/-- MemWrite of R10: bytes written from `a` on. No operation of the block calls it (10_state.md R59);
it is how the graphics library's pixels come into memory (20_memory.md R82, log 20). -/
def memWrite (a : Nat) : List Byte → Memory → Memory
  | [], m => m
  | b :: bs, m => memWrite (a + 1) bs (m.write a b)

/-- Pixels rendered from outside, between descriptors (70_reset_and_hazards.md R310; log 20). -/
def loadPixels (a : Nat) (bs : List Byte) (s : State) : State := { s with mem := memWrite a bs s.mem }

/-- MemRead over a plan: the bytes with their destinations, or the address of the first byte that was
never written, in address order (60_exceptions.md R275; log 14). -/
def gather (m : Memory) : List (Nat × Nat) → Except Nat (List (Nat × Byte))
  | [] => .ok []
  | (a, d) :: ps =>
    match memByte m a with
    | none => .error a
    | some b =>
      match gather m ps with
      | .error e => .error e
      | .ok ws => .ok ((d, b) :: ws)

/-! ### The frame buffer and scan-out (43_rgb_timing.md R218, R219; 44_blit.md R258) -/

/-- The bytes of fb[k]; none written where there is no such buffer. -/
def fbCells (r : RgbState) (k : Nat) : Memory := ((r.fb[k]?).map FrameBuf.cells).getD []

/-- FbWrite(k, i, b) (R10), which also adds `b` to scan_seen[i] while a frame of fb[k] is open (R258). -/
def fbWrite (k i : Nat) (b : Byte) (r : RgbState) : RgbState :=
  { r with
    fb := r.fb.modify k (fun f => { f with cells := f.cells.write i b })
    scanSeen :=
      if r.scanOpen && r.scanSel == k then { r.scanSeen with added := r.scanSeen.added ++ [(i, b)] }
      else r.scanSeen }

/-- scan_seen[i] (10_state.md R54): what byte `i` held when the frame began and every value written to
it since; none is "unwritten". -/
def seenAt (ss : ScanSeen) (i : Nat) : List (Option Byte) :=
  ss.base.read i :: (ss.added.filter (fun w => w.1 == i)).map (fun w => some w.2)

/-- FRAME_BEGIN (R218): the shown buffer is 0 when there is one, else a draw (R221). -/
def frameBegin (s : State) : State :=
  let n := s.rgb.fbCount.toNat
  let sel := if n = 1 then 0 else drawVal s % n
  let s1 := if n = 1 then s else afterDraw s
  { s1 with
    rgb := { s.rgb with scanOpen := true, scanSel := sel, scanSeen := ⟨fbCells s.rgb sel, []⟩ } }

/-- The byte a frame shows at index `i` (R219, R220): a drawn member of scan_seen[i], and any byte,
drawn, where that member is "unwritten". -/
def scanByte (i : Nat) (s : State) : Byte × State :=
  let vs := seenAt s.rgb.scanSeen i
  match vs.getD (drawVal s % vs.length) none with
  | some b => (b, afterDraw s)
  | none => (BitVec.ofNat 8 (drawVal (afterDraw s)), afterDraw (afterDraw s))

/-- The bytes of a frame at the given indexes, in order. -/
def scanBytes : List Nat → State → List Byte × State
  | [], s => ([], s)
  | i :: is, s =>
    let r := scanByte i s
    let rest := scanBytes is r.2
    (r.1 :: rest.1, rest.2)

/-- FRAME_END (R219): emit the frame. Indexes run over PANEL_W × PANEL_H × BYTES_PP bytes (log 16). -/
def frameEnd (s : State) : State :=
  let r := scanBytes (List.range (frameBytes s.cfg.panelW s.cfg.panelH s.cfg.bytesPP)) s
  { r.2 with rgb := { s.rgb with frames := s.rgb.frames ++ [r.1], scanOpen := false } }

/-- SCAN is enabled (60_exceptions.md R283). -/
def scanEnabled (s : State) : Bool := s.rgb.scanOpen || s.rgb.phase == .running

/-- One step of SCAN: FRAME_END while a frame is open, else FRAME_BEGIN (R218, R219). -/
def scanStep (s : State) : State := if s.rgb.scanOpen then frameEnd s else frameBegin s

/-! ### CANENV (42_can_queue.md R185, R188, R189) -/

/-- An event of the CAN bus. -/
inductive CanEvent where
  | rx (f : Frame)
  | busErr
  | errPass
deriving DecidableEq, Repr

/-- CANENV is enabled (60_exceptions.md R283). -/
def canEnabled (s : State) : Bool := s.can.phase == .running

/-- CAN_RX(f) on CANQ (R185, R187): the filter, then the tail of the queue, or a drop and the
QUEUE_FULL alert. -/
def canReceive (p : Params) (f : Frame) (c : CanState) : CanState :=
  if accepts p c.filter f then
    if c.rxq.length < c.rxqDepth.toNat then { c with rxq := c.rxq ++ [f] }
    else raiseAlert .queueFull { c with dropped := c.dropped + 1 }
  else c

/-- A step of CANENV. -/
def canStep (e : CanEvent) (s : State) : State :=
  match e with
  | .rx f => { s with can := canReceive s.cfg f s.can }
  | .busErr => { s with can := raiseAlert .busError s.can }
  | .errPass => { s with can := raiseAlert .errorPassive s.can }

/-! ### The other agents' steps (00_scope.md R11, 60_exceptions.md R283, R287; log 1)

HOST's Waits, its control-bus transfers and its operations of several sub-steps let CANENV and SCAN step
in between. `letOthersStep` stands at each of those places. -/

/-- A step of an agent other than HOST (R283). -/
inductive AgentStep where
  | canRx | canBusErr | canErrPass | scan
deriving DecidableEq, Repr

/-- What it does. A frame's content is a draw (42_can_queue.md R185). -/
def agentStep (a : AgentStep) (s : State) : State :=
  match a with
  | .canRx => canStep (.rx ⟨drawVal s⟩) (afterDraw s)
  | .canBusErr => canStep .busErr s
  | .canErrPass => canStep .errPass s
  | .scan => scanStep s

/-- Which of them are enabled (R283). -/
def otherSteps (s : State) : List AgentStep :=
  (if canEnabled s then [.canRx, .canBusErr, .canErrPass] else [])
    ++ (if scanEnabled s then [.scan] else [])

/-- One of the enabled steps, if there is any. -/
def otherStep (s : State) : State :=
  match chosen (otherSteps s) s with
  | none => s
  | some a => agentStep a (afterChoice (otherSteps s) s)

/-- `n` of them, one after the other. -/
def othersStep : Nat → State → State
  | 0, s => s
  | n + 1, s => othersStep n (otherStep s)

/-- The other agents take any number of steps, as a draw says: none where no step of theirs is
enabled, and then there is no draw either. -/
def letOthersStep (s : State) : State :=
  match otherSteps s with
  | [] => s
  | _ => othersStep (drawVal s) (afterDraw s)

/-! ### How an operation ends (60_exceptions.md R270, R273, R274, R281) -/

/-- TAKING A FAULT, `raise F(info)` (R273): FAULT gets the code, the PC of the operation and the info.
Nothing else changes: PC stays, nothing is saved elsewhere, no handler runs. HOST takes no further
step (41_sequencer.md R140), which `hostEnabled` of Machine/Schedule.lean reads off FAULT. THERE IS NO
RETURN FROM A FAULT (R276): FAULT is cleared by block reset alone (`blockReset`). -/
def raiseFault (c : FaultCode) (info : Nat) (s : State) : State :=
  { s with fault := some ⟨c, s.pc, info⟩ }

/-- `refuse Q` (R281): QMARK is set and the operation has no effect. -/
def refuse (q : RefuseReason) (s : State) : State := { s with qmark := some q }

/-- `pc <- pc + n` (10_state.md R34). -/
def advancePc (n : Nat) (s : State) : State := { s with pc := s.pc + n }

/-- Where a sub-step of an operation leads: on, into a fault with the effects so far, or into a
refusal, which discards them (R274, R281). -/
inductive Sub where
  | done (s : State)
  | raised (s : State) (c : FaultCode) (info : Nat)
  | refused (q : RefuseReason)
deriving DecidableEq, Repr

/-- The next sub-step, the other agents stepping before it (00_scope.md R11); none runs after a fault
or a refusal (R274). -/
def Sub.andThen (r : Sub) (k : State → Sub) : Sub :=
  match r with
  | .done s => k (letOthersStep s)
  | .raised s c info => .raised s c info
  | .refused q => .refused q

/-- The state an operation of `len` words ends in, begun in `s0` (R270). -/
def complete (s0 : State) (len : Nat) (r : Sub) : State :=
  match r with
  | .done s => advancePc len s
  | .raised s c info => raiseFault c info s
  | .refused q => refuse q s0

/-- The outcome of a host operation: always a next state, since the spec says what state each of the
four outcomes of R270 leaves (log 6, log 7). -/
def finish (o : Opcode) (s0 : State) (r : Sub) : Host.Outcome State Fault Refusal :=
  .next (complete s0 o.len r)

/-! ### Waiting (41_sequencer.md R152) -/

/-- `now <- now + d` (10_state.md R38). -/
def passTime (d : Nat) (s : State) : State := { s with now := s.now + d }

/-- The Delay event of a Wait(n) that lasts `d`. -/
def logDelay (n d : Nat) (s : State) : State :=
  { s with seq := { s.seq with log := s.seq.log ++ [.delay s.now n d] } }

/-- Wait(n): a drawn d ≥ n time-units pass, in which HOST does nothing and the other agents may step
(R152, 60_exceptions.md R287). -/
def wait (n : Nat) (s : State) : State :=
  passTime (n + drawVal s) (letOthersStep (logDelay n (n + drawVal s) (afterDraw s)))

/-! ### The output lines (41_sequencer.md R148 to R150) -/

/-- The level a line is driven to. -/
def levelOf (l : Bool) : Level := if l then .hi else .lo

/-- ResetLine(l) at time `now` (R149). -/
def resetLine (now : Nat) (l : Bool) (q : SeqState) : SeqState :=
  if l then
    match q.rstLowAt with
    | none => { q with rstLevel := .hi }
    | some t =>
      { q with
        rstLevel := .hi
        panelReadyAt := if tRstLow ≤ now - t then some (now + tRstWait) else none
        rstLowAt := none }
  else
    { q with
      rstLevel := .lo
      rstLowAt := some (q.rstLowAt.getD now)
      panelReadyAt := none }

/-- CsLine(l) at time `now` (R150). -/
def csLine (now : Nat) (l : Bool) (q : SeqState) : SeqState :=
  { q with csLevel := levelOf l, settleUntil := now + tCs }

/-- The effect of set_pin on SEQ (R148): the Edge, and the line it drives. -/
def pinEffect (p : Params) (now : Nat) (pin : BitVec 8) (l : Bool) (q : SeqState) : SeqState :=
  let q1 := { q with log := q.log ++ [.edge now pin l] }
  let q2 := if pin = p.rstPin then resetLine now l q1 else q1
  if pin = p.csPin then csLine now l q2 else q2

/-- SETPIN's body (R148), also the one PRESET, CSEN and CSDIS call: RST_PIN = CS_PIN is refused
(60_exceptions.md R281; log 19). -/
def setPin (pin : BitVec 8) (l : Bool) (s : State) : Sub :=
  if s.cfg.rstPin = s.cfg.csPin then .refused .param
  else .done { s with seq := pinEffect s.cfg s.now pin l s.seq }

/-! ### The control-bus word (41_sequencer.md R141) -/

/-- Whether the panel samples a word sent now: chip-select at 0; a draw while it was never driven
(R145). -/
def wordSeen (s : State) : Bool :=
  match s.seq.csLevel with
  | .lo => true
  | .hi => false
  | .x => drawBool s

/-- The state after deciding whether the word is seen. -/
def afterSeen (s : State) : State :=
  match s.seq.csLevel with
  | .lo => s
  | .hi => s
  | .x => afterDraw s

/-- The panel accepts words now (R146). -/
def panelReady (s : State) : Bool :=
  match s.seq.panelReadyAt with
  | none => false
  | some t => decide (t ≤ s.now)

/-- A word is in flight (R144). -/
def beginWord (s : State) : State := { s with seq := { s.seq with busy := true } }

/-- The word is out, `d` time-units after it began: LOG gets it, and for a seen word the scoreboard moves
(R141, R147). -/
def endWord (tag : Tag) (b : Byte) (req : Nat) (seen : Bool) (d : Nat) (s : State) : State :=
  let owed := if tag = .command then req else s.seq.curReq
  { s with
    now := s.now + d
    seq :=
      { s.seq with
        log := s.seq.log ++ [.word s.now tag b seen]
        busy := false
        curReq := if seen then owed else s.seq.curReq
        quietUntil := if seen then max s.seq.quietUntil (s.now + d + owed) else s.seq.quietUntil } }

/-- The transfer: a drawn time passes (R164), in which the other agents may step (60_exceptions.md
R283). -/
def sendWord (tag : Tag) (b : Byte) (req : Nat) (seen : Bool) (s : State) : State :=
  endWord tag b req seen (drawVal s) (letOthersStep (beginWord (afterDraw s)))

/-- The checks of a seen word, in the order of R141 and R277, then the transfer. -/
def checkAndSend (tag : Tag) (b : Byte) (req : Nat) (seen : Bool) (s : State) : Sub :=
  if seen && !panelReady s then .raised s .panelNotReady s.now
  else if seen && decide (s.now < s.seq.settleUntil) then
    .raised s .delayHazard (s.seq.settleUntil - s.now)
  else if seen && (tag == .command) && decide (s.now < s.seq.quietUntil) then
    .raised s .delayHazard (s.seq.quietUntil - s.now)
  else .done (sendWord tag b req seen s)

/-- XmitWord (R141). -/
def xmitWord (tag : Tag) (b : Byte) (req : Nat) (s : State) : Sub :=
  checkAndSend tag b req (wordSeen s) (afterSeen s)

/-! ### The chip-select bracket (41_sequencer.md R153, R154) -/

/-- cs_held is written by CSEN and CSDIS alone. -/
def setCsHeld (b : Bool) (s : State) : State := { s with seq := { s.seq with csHeld := b } }

/-- CSEN's body. -/
def csEnable (s : State) : Sub :=
  if s.seq.csHeld then .raised s .csPairing 1
  else (setPin s.cfg.csPin false s).andThen (fun s1 => .done (wait tCs (setCsHeld true s1)))

/-- CSDIS's body. -/
def csDisable (s : State) : Sub :=
  if s.seq.csHeld then
    (setPin s.cfg.csPin true s).andThen (fun s1 => .done (wait tCs (setCsHeld false s1)))
  else .raised s .csPairing 0

/-! ### Outside the machine's own steps -/

/-- `s` with the elements whose reset value is X (70_reset_and_hazards.md R300) as they are in `x`. -/
def withUnspecified (x s : State) : State :=
  { s with
    res := x.res, rval := x.rval, rframe := x.rframe
    can :=
      { s.can with
        txPin := x.can.txPin, rxPin := x.can.rxPin, mode := x.can.mode, rxqDepth := x.can.rxqDepth
        txqDepth := x.can.txqDepth, timing := x.can.timing, filter := x.can.filter }
    rgb :=
      { s.rgb with
        hsyncPw := x.rgb.hsyncPw, hbp := x.rgb.hbp, hfp := x.rgb.hfp, vsyncPw := x.rgb.vsyncPw
        vbp := x.rgb.vbp, vfp := x.rgb.vfp, hRes := x.rgb.hRes, vRes := x.rgb.vRes
        pclkHz := x.rgb.pclkHz, clkSrc := x.rgb.clkSrc, dataWidth := x.rgb.dataWidth, bpp := x.rgb.bpp
        fbCount := x.rgb.fbCount, bouncePx := x.rgb.bouncePx, placement := x.rgb.placement
        blDuty := x.rgb.blDuty }
    blit :=
      { s.blit with
        buf1 := x.blit.buf1, buf2 := x.blit.buf2, bufSize := x.blit.bufSize
        allocVw := x.blit.allocVw, allocVh := x.blit.allocVh, virtW := x.blit.virtW
        virtH := x.blit.virtH, offX := x.blit.offX, offY := x.blit.offY } }

/-- Block reset (70_reset_and_hazards.md R300): every element takes its value of 10_state.md R61. The
elements that are X there take those of `x`, an argument, as R300 asks. Descriptor memory, the
parameters and the environment's draws are not elements of the block and stay (no draw is repeated);
`pixels` is the launch's pixel data (log 27). -/
def blockReset (x : State) (pixels : Memory) (s : State) : State :=
  { withUnspecified x (State.launch s.cfg s.desc pixels s.script) with draws := s.draws }

/-- A list's first `k` entries, padded to length `k`. -/
def takePadded {α : Type} (d : α) : Nat → List α → List α
  | 0, _ => []
  | k + 1, [] => d :: takePadded d k []
  | k + 1, x :: xs => x :: takePadded d k xs

/-- Descriptor memory with the words `ws` at index `pc`. -/
def placeWords (pc : Nat) (ws d : List Word) : List Word :=
  takePadded 0#32 pc d ++ ws ++ d.drop (pc + ws.length)

end Sys2Proof.Machine
end

