-- ==== Sys2Proof/Machine/BlitEngine.lean ====
section
/-! DEFINITION. BLIT, the rectangular blit raster engine (44_blit.md): BUFALLOC, FLUSHREG, FLUSH, BLIT. -/

namespace Sys2Proof.Machine

/-! ### BUFALLOC (R241 to R245) -/

/-- Both addresses were drawn from LegalPairs (R241). -/
def allocOk (a1 a2 size vw vh : Nat) (s : State) : State :=
  setStatus .ok
    { s with
      blit :=
        { s.blit with
          buf1 := BitVec.ofNat 32 a1, buf2 := BitVec.ofNat 32 a2, bufSize := size
          allocVw := vw, allocVh := vh, allocState := .ok } }

/-- An address was null (R241, R244). -/
def allocFailed (s : State) : State :=
  reportFailure .allocationFailed
    { s with blit := { s.blit with allocState := .failed, gfxAborted := true } }

/-- The drawn address pair: a pair of LegalPairs, or a null. Two numbers are drawn; a pair that is not
legal stands for the null (DESIGN CHOICE, log 18). -/
def allocOutcome (vw vh size : Nat) (s : State) : State :=
  let a1 := drawVal s
  let a2 := drawVal (afterDraw s)
  let s2 := afterDraw (afterDraw s)
  if legalPair s.cfg size a1 a2 then allocOk a1 a2 size vw vh s2 else allocFailed s2

/-- BUFALLOC (R241). -/
def execBufalloc (vw vh bpp factor : Nat) (s : State) : Host.Outcome State Fault Refusal :=
  finish .bufalloc s
    (if s.blit.allocState ≠ .none then .refused .realloc
     else if factor = 0 then .refused .zeroFactor
     else if bpp ≠ s.cfg.bytesPP then .refused .geometry
     else if bufferSize vw vh bpp factor = 0 then .refused .zeroSize
     else .done (allocOutcome vw vh (bufferSize vw vh bpp factor) s))

/-! ### FLUSHREG (R246 to R248) -/

/-- The flush front end is registered (R246). -/
def registerFlush (vw vh ox oy : Nat) (s : State) : State :=
  { s with
    blit :=
      { s.blit with
        virtW := BitVec.ofNat 16 vw, virtH := BitVec.ofNat 16 vh
        offX := BitVec.ofNat 16 ox, offY := BitVec.ofNat 16 oy
        flushRegistered := true, regCount := s.blit.regCount + 1 } }

/-- FLUSHREG (R246). -/
def execFlushreg (vw vh ox oy rot : Nat) (s : State) : Host.Outcome State Fault Refusal :=
  finish .flushreg s
    (if rot ≠ 0 then .refused .rotation
     else if s.blit.flushRegistered then .refused .reregister
     else if s.blit.gfxAborted then .done s
     else if s.blit.allocState = .none then .raised s .regWithoutBuffers s.pc
     else if vw ≠ s.blit.allocVw ∨ vh ≠ s.blit.allocVh then .refused .geometry
     else .done (registerFlush vw vh ox oy s))

/-! ### The raster operation (R254 to R263) -/

/-- The writes of one blit: in an order that is not fixed (each next write is a drawn one of those
left), with any number of steps of the other agents before each (00_scope.md R11; 20_memory.md R93,
R99; R258; log 17). `fuel` is the number of writes. -/
def copyBytes : Nat → List (Nat × Byte) → State → State
  | 0, _, s => s
  | fuel + 1, ws, s =>
    match ws[drawVal s % ws.length]? with
    | none => s
    | some w =>
      let s1 := letOthersStep (afterDraw s)
      copyBytes fuel (ws.eraseIdx (drawVal s % ws.length)) { s1 with rgb := fbWrite 0 w.1 w.2 s1.rgb }

/-- A transfer is issued to the data plane (10_state.md R58). -/
def countBlit (s : State) : State := { s with blit := { s.blit with blitCalls := s.blit.blitCalls + 1 } }

/-- BlitBody (R254): every check comes before the first write. -/
def blitBody (w : Window) (px : Nat) (s : State) : Sub :=
  if s.rgb.phase ≠ .running then .raised s .blitNoPanel s.pc
  else if degenerate s.cfg w then .done s
  else if px % s.cfg.bytesPP ≠ 0 then .raised s .misaligned px
  else
    match gather s.mem (transferPlan s.cfg s.rgb.hRes.toNat w px) with
    | .error a => .raised s .unwrittenRead a
    | .ok ws => .done (copyBytes ws.length ws (countBlit s))

/-- BLIT (R254). -/
def execBlit (xs xe ys ye : Nat) (pixels : BitVec 32) (s : State) : Host.Outcome State Fault Refusal :=
  finish .blit s (blitBody ⟨xs, xe, ys, ye⟩ pixels.toNat s)

/-! ### FLUSH (R249 to R253) -/

/-- The completion signal, after the blit (R252). -/
def signalCompletion (w : Window) (s : State) : State :=
  { s with
    blit :=
      { s.blit with
        completions := s.blit.completions + 1
        flushLog := s.blit.flushLog ++ [(w, s.blit.completions + 1)] } }

/-- FLUSH (R249). -/
def execFlush (x1 y1 x2 y2 : Nat) (pixels : BitVec 32) (s : State) :
    Host.Outcome State Fault Refusal :=
  finish .flush s
    (if s.blit.gfxAborted then .done s
     else if !s.blit.flushRegistered then .raised s .flushUnregistered s.pc
     else if !pixelsOk s.cfg s.blit pixels.toNat x1 y1 x2 y2 then .raised s .badPixels s.pc
     else
      (blitBody (physicalWindow s.blit.offX s.blit.offY x1 y1 x2 y2) pixels.toNat s).andThen
        (fun s1 =>
          .done (signalCompletion (physicalWindow s.blit.offX s.blit.offY x1 y1 x2 y2) s1)))

end Sys2Proof.Machine
end

