-- ==== Sys2Proof/Machine/CanQueue.lean ====
section
/-! DEFINITION. CANQ, the CAN peripheral queue configurator (42_can_queue.md): CANCFG, CANRECV, CANALRT.
The steps of the CANENV agent are in Machine/Ops.lean, beside those of SCAN. -/

namespace Sys2Proof.Machine

/-- CANCFG has run, whatever its outcome (10_state.md R45). -/
def markTried (s : State) : State := { s with can := { s.can with tried := true } }

/-- Install succeeded: every CAN_* register gets its field, the queues are empty, nothing is pending
(R181). -/
def installCan (c : BusConfig) (s : State) : State :=
  { s with
    can :=
      { s.can with
        phase := .installed
        txPin := c.txPin, rxPin := c.rxPin, mode := c.mode
        rxqDepth := BitVec.ofNat 16 c.rxqDepth, txqDepth := BitVec.ofNat 16 c.txqDepth
        timing := c.timing, filter := c.filter
        alertEn := c.alerts, alertStatus := 0#3, rxq := [], txq := [] } }

/-- Start succeeded. -/
def startCan (s : State) : State := { s with can := { s.can with phase := .running } }

/-- The start draw and its two outcomes (R183). -/
def startOutcome (s : State) : State :=
  if drawBool s then setStatus .ok (startCan (afterDraw s)) else reportFailure .startFailed (afterDraw s)

/-- The install draw and its two outcomes (R182). -/
def installOutcome (c : BusConfig) (s : State) : State :=
  if drawBool s then startOutcome (installCan c (afterDraw s))
  else reportFailure .installFailed (afterDraw s)

/-- CANCFG (R181). -/
def execCancfg (cfg : BusConfig) (s : State) : Host.Outcome State Fault Refusal :=
  finish .cancfg s
    (if s.can.tried then .refused .canReconfig
     else if cfg.rxqDepth = 0 then .refused .zeroDepth
     else .done (installOutcome cfg (markTried s)))

/-- CANRECV with no frame to take (R190). -/
def recvEmpty (s : State) : State := setStatus .empty { s with rframe := none }

/-- CANRECV taking `f`, with `fs` left (R190). -/
def recvFrame (f : Frame) (fs : List Frame) (s : State) : State :=
  setStatus .ok { s with rframe := some f, can := { s.can with rxq := fs } }

/-- CANRECV's effect (R190). -/
def receive (s : State) : State :=
  match s.can.phase, s.can.rxq with
  | .uninstalled, _ => recvEmpty s
  | .installed, [] => recvEmpty s
  | .running, [] => recvEmpty s
  | .installed, f :: fs => recvFrame f fs s
  | .running, f :: fs => recvFrame f fs s

/-- CANRECV (R190). -/
def execCanrecv (s : State) : Host.Outcome State Fault Refusal := finish .canrecv s (.done (receive s))

/-- CANALRT's effect (R191): read and clear in one step. -/
def takeAlerts (s : State) : State :=
  setStatus .ok
    { s with rval := s.can.alertStatus.setWidth 32, can := { s.can with alertStatus := 0#3 } }

/-- CANALRT (R191). -/
def execCanalrt (s : State) : Host.Outcome State Fault Refusal := finish .canalrt s (.done (takeAlerts s))

end Sys2Proof.Machine
end

