-- ==== Sys2Proof/Machine/RgbTiming.lean ====
section
/-! DEFINITION. RGBTC, the RGB timing controller (43_rgb_timing.md): DPCFG and BLSET. The steps of the
SCAN agent are in Machine/Ops.lean, beside the frame buffer. -/

namespace Sys2Proof.Machine

/-- The handle was created: the DP_* registers get their fields, the frame buffers exist with every
byte unwritten (R215), and scan-out may start (R216). -/
def startPlane (c : PlaneConfig) (s : State) : State :=
  { s with
    rgb :=
      { s.rgb with
        hsyncPw := BitVec.ofNat 16 c.hsyncPw, hbp := BitVec.ofNat 16 c.hbp
        hfp := BitVec.ofNat 16 c.hfp, vsyncPw := BitVec.ofNat 16 c.vsyncPw
        vbp := BitVec.ofNat 16 c.vbp, vfp := BitVec.ofNat 16 c.vfp
        hRes := BitVec.ofNat 16 c.hRes, vRes := BitVec.ofNat 16 c.vRes
        pclkHz := BitVec.ofNat 32 c.pclkHz, clkSrc := c.clkSrc
        dataWidth := BitVec.ofNat 8 c.dataWidth, bpp := BitVec.ofNat 8 c.bpp
        fbCount := BitVec.ofNat 8 c.fbCount, bouncePx := BitVec.ofNat 32 c.bouncePx
        placement := BitVec.ofBool c.placement
        fb := List.replicate c.fbCount ⟨frameBytes c.hRes c.vRes s.cfg.bytesPP, []⟩
        phase := .running } }

/-- The handle could not be created (R211, R213). -/
def failPlane (s : State) : State := { s with rgb := { s.rgb with phase := .failed } }

/-- The handle draw and its two outcomes (R213). The other agents may step after the draw and before
the status is written (00_scope.md R11; log 1). -/
def planeOutcome (c : PlaneConfig) (s : State) : State :=
  let s1 := letOthersStep (afterDraw s)
  if drawBool s then setStatus .ok (letOthersStep (startPlane c s1))
  else reportFailure .handleCreationFailed (letOthersStep (failPlane s1))

/-- DPCFG (R211). -/
def execDpcfg (cfg : PlaneConfig) (s : State) : Host.Outcome State Fault Refusal :=
  finish .dpcfg s
    (if s.rgb.phase ≠ .unconfigured then .refused .dpReconfig
     else if !geomOk s.cfg cfg then .refused .geometry
     else if !s.seq.seqDone then .raised s .dpBeforeSeq s.pc
     else .done (planeOutcome cfg s))

/-- The backlight duty is written (R224). -/
def setBacklight (duty : Nat) (s : State) : State :=
  { s with rgb := { s.rgb with blDuty := duty, blSet := true } }

/-- BLSET (R224). -/
def execBlset (req : Nat) (s : State) : Host.Outcome State Fault Refusal :=
  finish .blset s
    (if s.cfg.blMax = 0 then .refused .param
     else if s.rgb.phase ≠ .running then .raised s .blBeforePanel s.pc
     else .done (setBacklight (backlightDuty s.cfg req) s))

end Sys2Proof.Machine
end

