-- ==== Sys2Proof/Machine/Sequencer.lean ====
section
/-! DEFINITION. SEQ, the panel command sequencer (41_sequencer.md): WRCMD, WRDATA, DELAY, CSEN, CSDIS,
PRESET, INITSEQ, SETPIN. -/

namespace Sys2Proof.Machine

/-- WRCMD (R142). -/
def execWrcmd (code : Byte) (s : State) : Host.Outcome State Fault Refusal :=
  finish .wrcmd s (xmitWord .command code (reqDelayOf s.cfg code) s)

/-- WRDATA (R143). -/
def execWrdata (byte : Byte) (s : State) : Host.Outcome State Fault Refusal :=
  finish .wrdata s (xmitWord .data byte 0 s)

/-- DELAY (R151). -/
def execDelay (n : Nat) (s : State) : Host.Outcome State Fault Refusal :=
  finish .delay s (.done (wait n s))

/-- CSEN (R153). -/
def execCsen (s : State) : Host.Outcome State Fault Refusal := finish .csen s (csEnable s)

/-- CSDIS (R154). -/
def execCsdis (s : State) : Host.Outcome State Fault Refusal := finish .csdis s (csDisable s)

/-- PRESET's sub-steps (R155): reset low, hold, release, recover. -/
def presetBody (s : State) : Sub :=
  (setPin s.cfg.rstPin false s).andThen (fun s1 =>
    (setPin s.cfg.rstPin true (wait tRstLow s1)).andThen (fun s2 => .done (wait tRstWait s2)))

/-- PRESET (R155). -/
def execPreset (s : State) : Host.Outcome State Fault Refusal := finish .preset s (presetBody s)

/-- The data words of an entry, in order (R156). -/
def sendData : List Byte → State → Sub
  | [], s => .done s
  | b :: bs, s => (xmitWord .data b 0 s).andThen (sendData bs)

/-- The post-delay an entry's command owes: max(REQ_DELAY, ROLE_MIN) (R147, R156). -/
def entryReq (p : Params) (e : TranscriptEntry) : Nat := max (reqDelayOf p e.cmd) (roleMin e.role)

/-- The wait after an entry, if it has one (R156). -/
def entryWait (e : TranscriptEntry) (s : State) : State :=
  if 0 < e.postDelay then wait e.postDelay s else s

/-- One entry of the transcript (R156). -/
def sendEntry (e : TranscriptEntry) (s : State) : Sub :=
  ((xmitWord .command e.cmd (entryReq s.cfg e) s).andThen (sendData e.data)).andThen
    (fun s1 => .done (entryWait e s1))

/-- TI gets the index of the entry being replayed (10_state.md R35). -/
def setTi (k : Nat) (s : State) : State := { s with seq := { s.seq with ti := k } }

/-- The entries from index `k` on, in order, with no early exit but a fault (R156, R157). -/
def replay : Nat → List TranscriptEntry → State → Sub
  | _, [], s => .done s
  | k, e :: es, s => (sendEntry e (setTi k s)).andThen (replay (k + 1) es)

/-- INITSEQ begins. -/
def beginInitseq (s : State) : State := { s with seq := { s.seq with inInitseq := true } }

/-- INITSEQ is complete: TI back to 0, in_initseq 0, seq_done 1. -/
def endInitseq (s : State) : State :=
  { s with seq := { s.seq with ti := 0, inInitseq := false, seqDone := true } }

/-- INITSEQ's sub-steps (R156): the transcript inside one chip-select bracket. -/
def initseqBody (s : State) : Sub :=
  (((csEnable (beginInitseq s)).andThen (replay 0 s.cfg.transcript)).andThen csDisable).andThen
    (fun s1 => .done (endInitseq s1))

/-- INITSEQ (R156). -/
def execInitseq (s : State) : Host.Outcome State Fault Refusal := finish .initseq s (initseqBody s)

/-- SETPIN (R148). -/
def execSetpin (pin : BitVec 8) (level : Bool) (s : State) : Host.Outcome State Fault Refusal :=
  finish .setpin s (setPin pin level s)

end Sys2Proof.Machine
end

