-- ==== Sys2Proof/Machine/Dispatch.lean ====
section
/-! DEFINITION. One arm per instruction: the meaning it runs. -/

namespace Sys2Proof.Machine

def exec (i : Instr) (s : State) : Host.Outcome State Fault Refusal :=
  match i with
  | .wrcmd code => Sys2Proof.Machine.execWrcmd code s
  | .wrdata byte => Sys2Proof.Machine.execWrdata byte s
  | .delay n => Sys2Proof.Machine.execDelay n s
  | .csen => Sys2Proof.Machine.execCsen s
  | .csdis => Sys2Proof.Machine.execCsdis s
  | .preset => Sys2Proof.Machine.execPreset s
  | .initseq => Sys2Proof.Machine.execInitseq s
  | .setpin pin level => Sys2Proof.Machine.execSetpin pin level s
  | .cancfg cfg => Sys2Proof.Machine.execCancfg cfg s
  | .canrecv => Sys2Proof.Machine.execCanrecv s
  | .canalrt => Sys2Proof.Machine.execCanalrt s
  | .dpcfg cfg => Sys2Proof.Machine.execDpcfg cfg s
  | .blset req => Sys2Proof.Machine.execBlset req s
  | .bufalloc vw vh bpp factor => Sys2Proof.Machine.execBufalloc vw vh bpp factor s
  | .flushreg vw vh ox oy rot => Sys2Proof.Machine.execFlushreg vw vh ox oy rot s
  | .flush x1 y1 x2 y2 pixels => Sys2Proof.Machine.execFlush x1 y1 x2 y2 pixels s
  | .blit xs xe ys ye pixels => Sys2Proof.Machine.execBlit xs xe ys ye pixels s

end Sys2Proof.Machine
end

