-- ==== Sys2Proof/Machine/Schedule.lean ====
section
/-! DEFINITION. Which agent takes the next step, and what its step is (60_exceptions.md R278, R283,
R289; 41_sequencer.md R140). -/

namespace Sys2Proof.Machine

/-- Whose step comes next: HOST's, or a step of CANENV or SCAN. -/
inductive Turn where
  | host
  | other (a : AgentStep)
deriving DecidableEq, Repr

/-- HOST takes a step only while FAULT = none, QMARK = none and PC < |D| (R140, R283). -/
def hostEnabled (s : State) : Bool :=
  s.fault.isNone && s.qmark.isNone && decide (s.pc < s.desc.length)

/-- The steps that are enabled (R283). -/
def enabledTurns (s : State) : List Turn :=
  (if hostEnabled s then [.host] else []) ++ (otherSteps s).map .other

/-- The step that is taken: when several are enabled, a draw (R278; log 3). -/
def nextTurn (s : State) : Option Turn := chosen (enabledTurns s) s

/-- The state in which it is taken: a draw was made if there was a choice. -/
def atTurn (s : State) : State := afterChoice (enabledTurns s) s

/-- A decode fault: it comes before any effect (30_encoding.md R126 to R128, R274). -/
def decodeFault (c : FaultCode) (info : Nat) (s : State) : Host.Outcome State Fault Refusal :=
  .next (raiseFault c info s)

/-- HOST's step: decode at PC and run the operation, or take the decode fault (R140). -/
def hostStep (s : State) : Host.Outcome State Fault Refusal :=
  match decode s.desc s.pc with
  | .instr i => exec i s
  | .illegalOp h => decodeFault .illegalOp h.toNat s
  | .truncated pc => decodeFault .truncated pc s
  | .reservedField k => decodeFault .reservedField k s
  | .endOfProgram => .fault .endOfProgram

/-- The step of the agent whose turn it is. -/
def runTurn (t : Turn) (s : State) : Host.Outcome State Fault Refusal :=
  match t with
  | .host => hostStep s
  | .other a => .next (agentStep a s)

/-- Why no agent has a step (R289; log 8). -/
def haltReason (s : State) : Fault :=
  if s.fault.isSome then .stoppedByFault
  else if s.qmark.isSome then .stoppedByRefusal
  else .endOfProgram

/-- One step of the machine: none with parameters that fail their checks (00_scope.md R8), else the
step of the agent whose turn it is. -/
def machineStep (s : State) : Host.Outcome State Fault Refusal :=
  match paramsRefusal s.cfg with
  | some r => .refused r
  | none =>
    match nextTurn s with
    | none => .fault (haltReason s)
    | some t => runTurn t (atTurn s)

/-- A state in which HOST is sure to take the next step: it is not stopped, and where the step is a
draw, the draw is fixed to HOST's (the first of `enabledTurns`). -/
def giveHostTurn (s : State) : State :=
  let s1 := { s with fault := none, qmark := none }
  match enabledTurns s1 with
  | [] => s1
  | [_] => s1
  | _ => { s1 with script := 0 :: s1.script }

/-- `s` with `ws` in descriptor memory at PC and HOST to move. -/
def withWords (ws : List Word) (s : State) : State :=
  giveHostTurn { s with desc := placeWords s.pc ws s.desc }

end Sys2Proof.Machine
end

