-- ==== Sys2Proof/Machine/Step.lean ====
section
/-! DEFINITION. One step of the machine, and the placing of one instruction where it is fetched. -/

namespace Sys2Proof.Machine

/-- One step of the machine (Machine/Schedule.lean). -/
def step (s : State) : Host.Outcome State Fault Refusal := machineStep s

/-- `s` with the instruction of the host's bits `w` where HOST fetches its next descriptor (log 21). -/
def State.withFetchWord (s : State) (nbits w : Nat) : State := withWords (tableWords nbits w) s

end Sys2Proof.Machine
end

