-- ==== Sys2Proof/Safety.lean ====
section
/-! DEFINITION. What a good run is, and the invariants of the machine, in the terms the statements use. -/

namespace Sys2Proof.Machine

/-- The block has neither faulted nor refused (60_exceptions.md R270). -/
def Unstopped (s : State) : Prop := s.fault = none ∧ s.qmark = none

/-- END, the only good end of a run (R289). -/
def GoodEnd (s : State) : Prop := Unstopped s ∧ s.pc = s.desc.length

/-- The parameters pass the checks that come before a run (00_scope.md R8, R14). -/
def ParamsOk (p : Params) : Prop := paramsRefusal p = none

/-- RST_PIN ≠ CS_PIN (92_eei_decisions.md D52). -/
def PinsDiffer (p : Params) : Prop := p.rstPin ≠ p.csPin

/-- The operations of SEQ, RGBTC and BLIT; the others are CANQ's (20_memory.md R105). -/
def displaySide (i : Instr) : Bool :=
  match i.opcode with
  | .cancfg => false
  | .canrecv => false
  | .canalrt => false
  | _ => true

/-- From `s`, steps of CANENV and SCAN alone, each taken where it is enabled, and draws, lead to `t`
(60_exceptions.md R283). -/
inductive OthersRan (s : State) : State → Prop where
  | refl : OthersRan s s
  | draw {t : State} : OthersRan s t → OthersRan s (afterDraw t)
  | can {t : State} (e : CanEvent) : OthersRan s t → canEnabled t = true → OthersRan s (canStep e t)
  | scan {t : State} : OthersRan s t → scanEnabled t = true → OthersRan s (scanStep t)

/-- From `s` to `t`, HOST has changed at most PC, SEQ's state and the clock; the other agents may have
taken steps of theirs. -/
def HostOnlyChangesSeq (s t : State) : Prop :=
  ∃ u, OthersRan s u ∧ t = { u with pc := t.pc, now := t.now, seq := t.seq }

/-- `t` differs from `s` at most in the four scan-out elements and the draws taken. -/
def OnlyScanChanges (s t : State) : Prop :=
  t = { s with
        rgb :=
          { s.rgb with
            scanOpen := t.rgb.scanOpen, scanSel := t.rgb.scanSel, scanSeen := t.rgb.scanSeen
            frames := t.rgb.frames }
        draws := t.draws, script := t.script }

/-- `t` differs from `s` at most in rxq, dropped and CAN_ALERT_STATUS, and the draws taken. -/
def OnlyReceptionChanges (s t : State) : Prop :=
  t = { s with
        can := { s.can with rxq := t.can.rxq, dropped := t.can.dropped, alertStatus := t.can.alertStatus }
        draws := t.draws, script := t.script }

/-- INITSEQ, begun in `s`, has run to its end in `t`. -/
def InitseqCompletes (s t : State) : Prop :=
  exec .initseq s = .next t ∧ t.fault = none ∧ t.qmark = none

/-- The events follow one another without a gap from time `a` to time `b`: an edge takes no time, a Wait
its drawn duration, no less than it asks for (41_sequencer.md R152), a word any time (R164). -/
def EventsRun (a : Nat) : List Event → Nat → Prop
  | [], b => a = b
  | .edge t _ _ :: es, b => t = a ∧ EventsRun a es b
  | .delay t n d :: es, b => t = a ∧ n ≤ d ∧ EventsRun (a + d) es b
  | .word t _ _ _ :: es, b => t = a ∧ ∃ a', a ≤ a' ∧ EventsRun a' es b

/-- Every byte of the clamped window's source pixels has been written (44_blit.md R254). -/
def SourceWritten (s : State) (w : Window) (px : Nat) : Prop :=
  ∀ x y j, w.xs ≤ x → x < clampX s.cfg w → w.ys ≤ y → y < clampY s.cfg w → j < s.cfg.bytesPP →
    memByte s.mem (srcAddr s.cfg w px x y + j) ≠ none

/-- What a transferring blit needs beyond its window and its pointer: the data plane runs, and (as
RgbInv says of every state a run reaches) frame buffer 0 exists and a row holds the clamped window. -/
def PlaneReady (s : State) (w : Window) : Prop :=
  s.rgb.phase = .running ∧ 0 < s.rgb.fb.length ∧ clampX s.cfg w ≤ s.rgb.hRes.toNat

/-- The host port (10_state.md R34 to R37, R60). -/
structure HostInv (s : State) : Prop where
  pc_in_program : s.pc ≤ s.desc.length
  fault_at_pc : ∀ r, s.fault = some r → r.pc = s.pc
  one_stop : s.fault = none ∨ s.qmark = none
  diag_holds_failures : ∀ st ∈ s.diag, st ≠ .ok ∧ st ≠ .empty

/-- System memory in its canonical form, inside the address space (10_state.md R59). -/
structure MemInv (s : State) : Prop where
  rising : s.mem.wf = true
  in_space : Memory.under addrSpace s.mem = true

/-- SEQ (10_state.md R39, R41 to R43; 41_sequencer.md R144, R149, R150), at the ends of steps. `not_busy`,
`initseq_open_only_at_fault` and `ti_only_in_initseq` rest on a descriptor being one step of the model
(DESIGN CHOICE, log 1): between the sub-steps of a word or of INITSEQ, while CANENV and SCAN step, busy
and in_initseq are 1 with no fault. -/
structure SeqInv (s : State) : Prop where
  not_busy : s.seq.busy = false
  initseq_open_only_at_fault : s.seq.inInitseq = true → s.fault ≠ none
  ti_only_in_initseq : s.seq.ti ≠ 0 → s.seq.inInitseq = true
  low_iff_timed : s.seq.rstLevel = .lo ↔ s.seq.rstLowAt ≠ none
  low_in_past : ∀ t, s.seq.rstLowAt = some t → t ≤ s.now
  ready_means_released : s.seq.panelReadyAt ≠ none → s.seq.rstLevel = .hi
  ready_soon : ∀ t, s.seq.panelReadyAt = some t → t ≤ s.now + tRstWait
  settle_soon : s.seq.settleUntil ≤ s.now + tCs
  held_means_driven : s.seq.csHeld = true → s.seq.csLevel ≠ .x

/-- CANQ (10_state.md R45 to R49; 42_can_queue.md R185, R195). -/
structure CanInv (s : State) : Prop where
  installed_means_tried : s.can.phase ≠ .uninstalled → s.can.tried = true
  rxq_bounded : s.can.rxq.length ≤ s.can.rxqDepth.toNat
  txq_empty : s.can.txq = []
  disabled_alerts_clear : s.can.alertStatus &&& ~~~ s.can.alertEn = 0#3
  no_queue_uninstalled : s.can.phase = .uninstalled → s.can.rxq = []
  depth_positive : s.can.phase ≠ .uninstalled → 0 < s.can.rxqDepth.toNat
  drops_mean_running : 0 < s.can.dropped → s.can.phase = .running

/-- RGBTC (10_state.md R51 to R55; 43_rgb_timing.md R211 to R225; 44_blit.md R258). -/
structure RgbInv (s : State) : Prop where
  running_after_seq : s.rgb.phase = .running → s.seq.seqDone = true
  geometry : s.rgb.phase = .running →
    s.rgb.hRes.toNat = s.cfg.panelW ∧ s.rgb.vRes.toNat = s.cfg.panelH
  buffers_counted : s.rgb.phase = .running →
    s.rgb.fb.length = s.rgb.fbCount.toNat ∧ 0 < s.rgb.fb.length
  no_buffers_else : s.rgb.phase ≠ .running → s.rgb.fb = []
  buffer_size : ∀ f ∈ s.rgb.fb, f.size = frameBytes s.cfg.panelW s.cfg.panelH s.cfg.bytesPP
  buffer_form : ∀ f ∈ s.rgb.fb, f.cells.wf = true ∧ Memory.under f.size f.cells = true
  open_means_running : s.rgb.scanOpen = true → s.rgb.phase = .running
  shown_exists : s.rgb.scanOpen = true → s.rgb.scanSel < s.rgb.fb.length
  shown_was_seen : s.rgb.scanOpen = true →
    ∀ i, (fbCells s.rgb s.rgb.scanSel).read i ∈ seenAt s.rgb.scanSeen i
  frames_full : ∀ f ∈ s.rgb.frames, f.length = frameBytes s.cfg.panelW s.cfg.panelH s.cfg.bytesPP
  duty_bounded : s.rgb.blSet = true → s.rgb.blDuty ≤ s.cfg.blFull
  lit_means_running : s.rgb.blSet = true → s.rgb.phase = .running

/-- BLIT (10_state.md R56 to R58; 44_blit.md R243 to R252). -/
structure BlitInv (s : State) : Prop where
  allocated_legal : s.blit.allocState = .ok →
    legalPair s.cfg s.blit.bufSize s.blit.buf1.toNat s.blit.buf2.toNat = true ∧ 0 < s.blit.bufSize
  aborted_iff_failed : s.blit.gfxAborted = true ↔ s.blit.allocState = .failed
  registered_means_allocated : s.blit.flushRegistered = true → s.blit.allocState = .ok
  registered_canvas : s.blit.flushRegistered = true →
    s.blit.virtW.toNat = s.blit.allocVw ∧ s.blit.virtH.toNat = s.blit.allocVh
  counted_once : s.blit.regCount = s.blit.flushRegistered.toNat
  log_counts : s.blit.flushLog.length = s.blit.completions
  completions_registered : 0 < s.blit.completions → s.blit.flushRegistered = true

end Sys2Proof.Machine
end

