-- ==== Sys2Proof/Certificates/Slice0/Obligations.lean ====
section
/-! DEFINITION. The statements for the provers. Every one is for every state, so for every parameter set
and every value of every draw. -/

open Sys2Proof Sys2Proof.Machine

/-! ### Encodings (30_encoding.md) -/

/-- R115 to R125, R132: the words of a well-formed instruction, anywhere in descriptor memory, decode to
that instruction. -/
def Obligations.DecodeOfEncodeIsTheInstruction : Prop :=
  ∀ (i : Instr) (before after : List Word), i.wf = true →
    decode (before ++ encode i ++ after) before.length = .instr i

/-- R115 to R127: what decodes to an instruction is exactly that instruction's words, so no word has a
second spelling. -/
def Obligations.EncodeOfDecodedIsTheWords : Prop :=
  ∀ (d : List Word) (pc : Nat) (i : Instr), decode d pc = .instr i →
    encode i = (d.drop pc).take i.len

/-- R117, R118, R128: a decoded instruction is well-formed, takes 1 to 9 words and ends inside descriptor
memory. -/
def Obligations.DecodedInstructionFits : Prop :=
  ∀ (d : List Word) (pc : Nat) (i : Instr), decode d pc = .instr i →
    i.wf = true ∧ 1 ≤ i.len ∧ i.len ≤ 9 ∧ pc + i.len ≤ d.length

/-- R118 to R125, on words: for every row of the opcode map a descriptor of 95_test_vectors.md (V-E1 to
V-E14, and program P2's DPCFG) decodes to the instruction it lists. CANCFG and DPCFG besides with words
written out from R119 and R120 in which every field has a value of its own. -/
def Obligations.SpecWordsDecodeAsListed : Prop :=
  decode [0x00001101#32] 0 = .instr (.wrcmd 0x11#8)
    ∧ decode [0x00000802#32] 0 = .instr (.wrdata 0x08#8)
    ∧ decode [0x00780003#32] 0 = .instr (.delay 120)
    ∧ decode [0x00000004#32] 0 = .instr .csen
    ∧ decode [0x00000005#32] 0 = .instr .csdis
    ∧ decode [0x00000006#32] 0 = .instr .preset
    ∧ decode [0x00000007#32] 0 = .instr .initseq
    ∧ decode [0x00010308#32] 0 = .instr (.setpin 3#8 true)
    ∧ decode [0x00000208#32] 0 = .instr (.setpin 2#8 false)
    ∧ decode [0x00000010#32, 0x07000605#32, 0x00050040#32, 0#32, 0#32] 0
        = .instr (.cancfg ⟨5#8, 6#8, 0#8, 7#3, 64, 5, 0#32, 0#32⟩)
    ∧ decode [0x00000010#32, 0x04332211#32, 0x77665544#32, 0x89ABCDEF#32, 0x01234567#32] 0
        = .instr
            (.cancfg
              ⟨0x11#8, 0x22#8, 0x33#8, 4#3, 0x5544, 0x7766, 0x89ABCDEF#32, 0x01234567#32⟩)
    ∧ decode [0x00000011#32] 0 = .instr .canrecv
    ∧ decode [0x00000012#32] 0 = .instr .canalrt
    ∧ decode
        [0x00000020#32, 0x00140008#32, 0x00080014#32, 0x00140014#32, 0x01E003C0#32, 0x00F42400#32,
         0x01101000#32, 0x00000000#32, 0x00000001#32] 0
        = .instr (.dpcfg ⟨8, 20, 20, 8, 20, 20, 960, 480, 16000000, 0#8, 16, 16, 1, 0, true⟩)
    ∧ decode
        [0x00000020#32, 0x00020001#32, 0x00040003#32, 0x00060005#32, 0x00080007#32, 0x00000009#32,
         0x0D0C0B0A#32, 0x0000000E#32, 0x00000001#32] 0
        = .instr (.dpcfg ⟨1, 2, 3, 4, 5, 6, 7, 8, 9, 10#8, 11, 12, 13, 14, true⟩)
    ∧ decode [0x00320021#32] 0 = .instr (.blset 50)
    ∧ decode [0x00000030#32, 0x03C000F0#32, 0x00000502#32] 0 = .instr (.bufalloc 240 960 2 5)
    ∧ decode [0x00000031#32, 0x03C000F0#32, 0x001A0278#32, 0x00000000#32] 0
        = .instr (.flushreg 240 960 632 26 0)
    ∧ decode [0x00000032#32, 0x00000000#32, 0x000A000A#32, 0x3FC90000#32] 0
        = .instr (.flush 0 0 10 10 0x3FC90000#32)
    ∧ decode [0x00000033#32, 0x02820278#32, 0x0024001A#32, 0x3FC90000#32] 0
        = .instr (.blit 632 642 26 36 0x3FC90000#32)

/-- R111: W = DC × 256 + B. R112: the wire carries DC first, then B[7] down to B[0]. -/
def Obligations.ControlBusWordAndWireOrder : Prop :=
  ∀ b : Byte,
    (busWord .command b).toNat = b.toNat ∧ (busWord .data b).toNat = 256 + b.toNat
      ∧ ∀ t : Tag,
        wireBits (busWord t b)
          = [decide (t = .data), b.getLsbD 7, b.getLsbD 6, b.getLsbD 5, b.getLsbD 4, b.getLsbD 3,
             b.getLsbD 2, b.getLsbD 1, b.getLsbD 0]

/-- R126: 0x00 and 0xFF are in no row of the opcode map, and a header whose OPC is in none faults with the
header, before any effect. (`atTurn` is the state with the draw of whose turn it is taken.) -/
def Obligations.IllegalOpcodeFaults : Prop :=
  (∀ o : Opcode, o.byte ≠ 0x00#8 ∧ o.byte ≠ 0xFF#8) ∧ ∀ (s : State) (h : Word), ParamsOk s.cfg → nextTurn s = some .host → s.desc[s.pc]? = some h →
    (∀ o : Opcode, o.byte ≠ h.extractLsb' 0 8) →
    step s = .next { atTurn s with fault := some ⟨.illegalOp, s.pc, h.toNat⟩ }

/-- R128: a descriptor that runs past the end of descriptor memory faults with PC, before any effect. -/
def Obligations.TruncatedDescriptorFaults : Prop :=
  ∀ (s : State) (h : Word) (o : Opcode), ParamsOk s.cfg → nextTurn s = some .host →
    s.desc[s.pc]? = some h → o.byte = h.extractLsb' 0 8 → s.desc.length < s.pc + o.len →
    step s = .next { atTurn s with fault := some ⟨.truncated, s.pc, s.pc⟩ }

/-- R127: a descriptor with a must-be-0 bit set in some word faults with the number of a word that has
one, before any effect. That the number counts inside the descriptor, its header being 0, and not from
the start of descriptor memory, is the model's choice of R127's "word index" (DESIGN CHOICE, log 30).
(With such bits in several words the model reports the lowest: log 13; nothing here rests on it.) -/
def Obligations.ReservedBitFaults : Prop :=
  ∀ (s : State) (h : Word) (o : Opcode), ParamsOk s.cfg → nextTurn s = some .host →
    s.desc[s.pc]? = some h → o.byte = h.extractLsb' 0 8 → s.pc + o.len ≤ s.desc.length →
    (∃ j, j < o.len ∧ o.masks.getD j 0#32 &&& s.desc.getD (s.pc + j) 0#32 ≠ 0#32) →
    ∃ k, k < o.len ∧ o.masks.getD k 0#32 &&& s.desc.getD (s.pc + k) 0#32 ≠ 0#32
      ∧ step s = .next { atTurn s with fault := some ⟨.reservedField, s.pc, k⟩ }

/-- R140, R278, R283: HOST may take the next step exactly while FAULT and QMARK are none and PC is inside
descriptor memory. The next step is one of those enabled, any of them by some draw, and HOST's where no
other agent has one. R132, R140: when it is HOST's and the descriptor at PC decodes to an instruction, the
step is that instruction's meaning, in the state with the draw of whose turn it is taken; that state
differs from the given one in the draws alone. (R283 has a step of HOST be a descriptor or one sub-step;
that a whole descriptor is one step here, the other agents' steps inside it, is the model's choice:
DESIGN CHOICE, log 1. How a draw picks among the enabled steps is its coding, log 3.) -/
def Obligations.StepRunsTheDecodedInstruction : Prop :=
  ∀ s : State,
    (Turn.host ∈ enabledTurns s ↔ s.fault = none ∧ s.qmark = none ∧ s.pc < s.desc.length)
      ∧ (∀ t, nextTurn s = some t → t ∈ enabledTurns s)
      ∧ (∀ t, t ∈ enabledTurns s → ∃ sc, nextTurn { s with script := sc } = some t)
      ∧ (s.fault = none → s.qmark = none → s.pc < s.desc.length → s.can.phase ≠ .running →
          s.rgb.phase ≠ .running → s.rgb.scanOpen = false → nextTurn s = some .host)
      ∧ ∀ i : Instr, ParamsOk s.cfg → nextTurn s = some .host → decode s.desc s.pc = .instr i →
          step s = exec i (atTurn s)
            ∧ atTurn s = { s with draws := (atTurn s).draws, script := (atTurn s).script }

/-! ### SEQ (41_sequencer.md) -/

/-- R141, R142, R147: a command word, chip-select enabled, panel ready, settled and quiet. During the
transfer (R164) CANENV and SCAN may step (R283): `u` is the state as they leave it. -/
def Obligations.WrcmdSendsCommandWord : Prop :=
  ∀ (s : State) (c : Byte) (r : Nat), s.seq.csLevel = .lo → s.seq.panelReadyAt = some r →
    r ≤ s.now → s.seq.settleUntil ≤ s.now → s.seq.quietUntil ≤ s.now →
    ∃ u, OthersRan s u
      ∧ exec (.wrcmd c) s
        = .next
            { u with
              pc := s.pc + 1
              now := s.now + drawVal s
              seq :=
                { s.seq with
                  log := s.seq.log ++ [.word s.now .command c true]
                  busy := false
                  curReq := reqDelayOf s.cfg c
                  quietUntil :=
                    max s.seq.quietUntil (s.now + drawVal s + reqDelayOf s.cfg c) } }

/-- R141, R143: a data word, chip-select enabled, panel ready and settled. It is not held back by the
command delay, and pushes it. CANENV and SCAN may step during the transfer. -/
def Obligations.WrdataSendsDataWord : Prop :=
  ∀ (s : State) (b : Byte) (r : Nat), s.seq.csLevel = .lo → s.seq.panelReadyAt = some r →
    r ≤ s.now → s.seq.settleUntil ≤ s.now →
    ∃ u, OthersRan s u
      ∧ exec (.wrdata b) s
        = .next
            { u with
              pc := s.pc + 1
              now := s.now + drawVal s
              seq :=
                { s.seq with
                  log := s.seq.log ++ [.word s.now .data b true]
                  busy := false
                  quietUntil := max s.seq.quietUntil (s.now + drawVal s + s.seq.curReq) } }

/-- R113, R145: with chip-select disabled a word is logged as not seen and changes nothing else of SEQ;
it cannot fault. CANENV and SCAN may step during the transfer. -/
def Obligations.UnseenWordIsOnlyLogged : Prop :=
  ∀ (s : State) (b : Byte), s.seq.csLevel = .hi →
    ∃ u, OthersRan s u
      ∧ exec (.wrcmd b) s
        = .next
            { u with
              pc := s.pc + 1
              now := s.now + drawVal s
              seq := { s.seq with log := s.seq.log ++ [.word s.now .command b false], busy := false } }
      ∧ exec (.wrdata b) s
        = .next
            { u with
              pc := s.pc + 1
              now := s.now + drawVal s
              seq := { s.seq with log := s.seq.log ++ [.word s.now .data b false], busy := false } }

/-- R145: with chip-select never driven a draw decides, and the word goes as it would with chip-select
enabled or disabled; chip-select stays undriven. (That an odd number means "seen" is the model's
coding, log 2.) -/
def Obligations.UndrivenChipSelectIsADraw : Prop :=
  ∀ (s u : State) (b : Byte) (l : Level), s.seq.csLevel = .x →
    l = (if drawVal s % 2 = 1 then .lo else .hi) →
    (exec (.wrcmd b) { afterDraw s with seq := { s.seq with csLevel := l } } = .next u →
        exec (.wrcmd b) s = .next { u with seq := { u.seq with csLevel := .x } })
      ∧ (exec (.wrdata b) { afterDraw s with seq := { s.seq with csLevel := l } } = .next u →
        exec (.wrdata b) s = .next { u with seq := { u.seq with csLevel := .x } })

/-- R146, R272, R273: a seen word before the panel is ready faults with the time, sends nothing and
changes nothing but FAULT. -/
def Obligations.WordBeforePanelReadyFaults : Prop :=
  ∀ (s : State) (b : Byte), s.seq.csLevel = .lo →
    (s.seq.panelReadyAt = none ∨ ∃ r, s.seq.panelReadyAt = some r ∧ s.now < r) →
    exec (.wrcmd b) s = .next { s with fault := some ⟨.panelNotReady, s.pc, s.now⟩ }
      ∧ exec (.wrdata b) s = .next { s with fault := some ⟨.panelNotReady, s.pc, s.now⟩ }

/-- R147, R272, R277: a seen word inside the settle time faults with the shortfall; a seen command after
it but inside the owed delay faults with that shortfall. Nothing but FAULT changes. -/
def Obligations.EarlyWordIsADelayHazard : Prop :=
  ∀ (s : State) (b : Byte) (r : Nat), s.seq.csLevel = .lo → s.seq.panelReadyAt = some r →
    r ≤ s.now →
    (s.now < s.seq.settleUntil →
        exec (.wrcmd b) s
            = .next { s with fault := some ⟨.delayHazard, s.pc, s.seq.settleUntil - s.now⟩ }
          ∧ exec (.wrdata b) s
            = .next { s with fault := some ⟨.delayHazard, s.pc, s.seq.settleUntil - s.now⟩ })
      ∧ (s.seq.settleUntil ≤ s.now → s.now < s.seq.quietUntil →
        exec (.wrcmd b) s
          = .next { s with fault := some ⟨.delayHazard, s.pc, s.seq.quietUntil - s.now⟩ })

/-- R148 to R150: SETPIN logs an edge; on CS_PIN it sets cs_level and restarts the settle time; on
RST_PIN it does what ResetLine says, case by case; on another pin it does nothing more. -/
def Obligations.SetpinDrivesTheLines : Prop :=
  ∀ (s : State) (p : BitVec 8) (l : Bool), PinsDiffer s.cfg →
    ∃ t, exec (.setpin p l) s = .next t
      ∧ t = { s with pc := s.pc + 1, seq := t.seq }
      ∧ (p = s.cfg.csPin →
          t.seq
            = { s.seq with
                log := s.seq.log ++ [.edge s.now p l]
                csLevel := if l then .hi else .lo
                settleUntil := s.now + 10 })
      ∧ (p = s.cfg.rstPin → l = false →
          t.seq
            = { s.seq with
                log := s.seq.log ++ [.edge s.now p l]
                rstLevel := .lo
                rstLowAt := if s.seq.rstLowAt = none then some s.now else s.seq.rstLowAt
                panelReadyAt := none })
      ∧ (p = s.cfg.rstPin → l = true → s.seq.rstLowAt = none →
          t.seq = { s.seq with log := s.seq.log ++ [.edge s.now p l], rstLevel := .hi })
      ∧ (∀ a, p = s.cfg.rstPin → l = true → s.seq.rstLowAt = some a →
          t.seq
            = { s.seq with
                log := s.seq.log ++ [.edge s.now p l]
                rstLevel := .hi
                rstLowAt := none
                panelReadyAt := if 10 ≤ s.now - a then some (s.now + 50) else none })
      ∧ (p ≠ s.cfg.csPin → p ≠ s.cfg.rstPin →
          t.seq = { s.seq with log := s.seq.log ++ [.edge s.now p l] })

/-- R151, R152, R283, R287: DELAY n lets a drawn d ≥ n time-units pass and logs it; CANENV and SCAN may
step meanwhile, and HOST changes nothing else. Nothing bounds d or what they do: while CAN runs, for
every d ≥ n and every list of bus events there are draws that give a wait of exactly d in which exactly
those events come, in that order. -/
def Obligations.DelayWaitsAtLeastItsOperand : Prop :=
  ∀ (s : State) (n : Nat),
    (∃ d u, n ≤ d ∧ OthersRan s u
      ∧ exec (.delay n) s
        = .next
            { u with
              pc := s.pc + 1
              now := s.now + d
              seq := { s.seq with log := s.seq.log ++ [.delay s.now n d] } })
      ∧ ∀ (d : Nat) (es : List CanEvent), n ≤ d → s.can.phase = .running →
        ∃ sc t, exec (.delay n) { s with script := sc } = .next t
          ∧ t.now = s.now + d
          ∧ t.can = (es.foldl (fun u e => canStep e u) s).can

/-- R153, R154: CSEN and CSDIS drive chip-select, record who holds it, and wait at least 10; after
either the settle time has passed. CANENV and SCAN may step between their sub-steps and in the wait. -/
def Obligations.ChipSelectBracketCompletes : Prop :=
  ∀ s : State, PinsDiffer s.cfg →
    (s.seq.csHeld = false →
        ∃ d u, 10 ≤ d ∧ OthersRan s u
          ∧ exec .csen s
            = .next
                { u with
                  pc := s.pc + 1
                  now := s.now + d
                  seq :=
                    { s.seq with
                      log := s.seq.log ++ [.edge s.now s.cfg.csPin false, .delay s.now 10 d]
                      csLevel := .lo
                      csHeld := true
                      settleUntil := s.now + 10 } })
      ∧ (s.seq.csHeld = true →
        ∃ d u, 10 ≤ d ∧ OthersRan s u
          ∧ exec .csdis s
            = .next
                { u with
                  pc := s.pc + 1
                  now := s.now + d
                  seq :=
                    { s.seq with
                      log := s.seq.log ++ [.edge s.now s.cfg.csPin true, .delay s.now 10 d]
                      csLevel := .hi
                      csHeld := false
                      settleUntil := s.now + 10 } })

/-- R153, R154, R272: CSEN while chip-select is held, and CSDIS while it is not, fault with 1 and 0 and
change nothing but FAULT. -/
def Obligations.UnpairedChipSelectFaults : Prop :=
  ∀ s : State,
    (s.seq.csHeld = true → exec .csen s = .next { s with fault := some ⟨.csPairing, s.pc, 1⟩ })
      ∧ (s.seq.csHeld = false → exec .csdis s = .next { s with fault := some ⟨.csPairing, s.pc, 0⟩ })

/-- R155, R162: PRESET pulses the reset line low for at least 10 and waits at least 50; it takes at
least 60 and the panel is then ready. CANENV and SCAN may step between its sub-steps and in its waits.
(The premise on the low time holds in every state a run reaches: SeqInv.) -/
def Obligations.PresetMakesThePanelReady : Prop :=
  ∀ s : State, PinsDiffer s.cfg → (∀ a, s.seq.rstLowAt = some a → a ≤ s.now) →
    ∃ d1 d2 u, 10 ≤ d1 ∧ 50 ≤ d2 ∧ OthersRan s u
      ∧ exec .preset s
        = .next
            { u with
              pc := s.pc + 1
              now := s.now + d1 + d2
              seq :=
                { s.seq with
                  log :=
                    s.seq.log
                      ++ [.edge s.now s.cfg.rstPin false, .delay s.now 10 d1,
                          .edge (s.now + d1) s.cfg.rstPin true, .delay (s.now + d1) 50 d2]
                  rstLevel := .hi
                  rstLowAt := none
                  panelReadyAt := some (s.now + d1 + 50) } }

/-- R156, R157, R163: after a panel reset and with chip-select not held, INITSEQ completes when every
entry's post-delay covers what its command owes. What it appends to LOG is the chip-select edge to 0 and
its wait, then for each entry of the transcript, in order, its words, every one seen, and right after them
its Wait(post_delay) if that is above 0, with no pin edge among them, and the edge to 1, at time t1, and
its wait. Each of these events begins where the one before it has ended, and every wait lasts at least
what it asks for. It takes at least two settle times and the post-delays. It leaves
settle_until 10 after the release; cur_req what the last entry's command owes, and quiet_until that much
after the end w of the last word (where the last entry's post-delay began, or t1 if it has none). Beyond
SEQ, the clock and PC only the other agents' steps change anything. -/
def Obligations.InitseqReplaysTheTranscript : Prop :=
  ∀ (s : State) (r : Nat), PinsDiffer s.cfg → s.seq.csHeld = false →
    s.seq.panelReadyAt = some r → r ≤ s.now + 10 → s.seq.quietUntil ≤ s.now + 10 →
    (∀ e ∈ s.cfg.transcript, max (reqDelayOf s.cfg e.cmd) (roleMin e.role) ≤ e.postDelay) →
    ∃ t mid t1 d0 d1, exec .initseq s = .next t
      ∧ HostOnlyChangesSeq s t
      ∧ t.pc = s.pc + 1
      ∧ t.seq.log
        = s.seq.log
            ++ ([.edge s.now s.cfg.csPin false, .delay s.now 10 d0]
              ++ mid ++ [.edge t1 s.cfg.csPin true, .delay t1 10 d1])
      ∧ mid.map Event.shape
        = s.cfg.transcript.flatMap (fun e =>
            EventShape.word .command e.cmd true :: e.data.map (fun b => EventShape.word .data b true)
              ++ if 0 < e.postDelay then [EventShape.delay e.postDelay] else [])
      ∧ EventsRun (s.now + d0) mid t1
      ∧ wordsOf mid = transcriptWords s.cfg.transcript
      ∧ (∀ u tag b seen, Event.word u tag b seen ∈ mid → seen = true)
      ∧ (∀ e ∈ mid, ∀ u p l, e ≠ .edge u p l)
      ∧ 10 ≤ d0 ∧ 10 ≤ d1 ∧ t.now = t1 + d1
      ∧ s.now + d0 + transcriptDelay s.cfg.transcript ≤ t1
      ∧ t.seq.settleUntil = t1 + 10
      ∧ (∀ es e, s.cfg.transcript = es ++ [e] →
          t.seq.curReq = max (reqDelayOf s.cfg e.cmd) (roleMin e.role)
            ∧ ∃ w, t.seq.quietUntil = w + max (reqDelayOf s.cfg e.cmd) (roleMin e.role)
              ∧ (e.postDelay = 0 → w = t1)
              ∧ (0 < e.postDelay → ∃ m d, mid = m ++ [.delay w e.postDelay d] ∧ w + d = t1))
      ∧ t.seq.seqDone = true ∧ t.seq.inInitseq = false ∧ t.seq.ti = 0
      ∧ t.seq.csHeld = false ∧ t.seq.csLevel = .hi
      ∧ t.seq.rstLevel = s.seq.rstLevel ∧ t.seq.rstLowAt = s.seq.rstLowAt
      ∧ t.seq.panelReadyAt = s.seq.panelReadyAt

/-- R159: the log of a completed INITSEQ has exactly one chip-select edge to 0, before the first word,
exactly one to 1, after the last word, and no other chip-select edge. -/
def Obligations.InitseqPairsChipSelect : Prop :=
  ∀ s t : State, InitseqCompletes s t →
    ∃ mid t1 d0 d1,
      t.seq.log
          = s.seq.log
              ++ ([.edge s.now s.cfg.csPin false, .delay s.now 10 d0]
                ++ mid ++ [.edge t1 s.cfg.csPin true, .delay t1 10 d1])
        ∧ ∀ e ∈ mid, ∀ u p l, e ≠ .edge u p l

/-- R158: two INITSEQs in succession that both complete append the same words, and events of the same
shape: same pins, levels, words and requested minima, in the same order. -/
def Obligations.InitseqIsIdempotent : Prop :=
  ∀ s t u : State, InitseqCompletes s t → InitseqCompletes t u →
    ∃ e1 e2, t.seq.log = s.seq.log ++ e1 ∧ u.seq.log = t.seq.log ++ e2
      ∧ wordsOf e1 = wordsOf e2 ∧ e1.map Event.shape = e2.map Event.shape

/-- R153, R156, R274: INITSEQ with chip-select held faults with 1, in_initseq left at 1. With no panel
reset before it, it enables chip-select and faults at the first word, which is not sent; CANENV and SCAN
may have stepped meanwhile. -/
def Obligations.InitseqFaultsPrecisely : Prop :=
  ∀ s : State,
    (s.seq.csHeld = true →
        exec .initseq s
          = .next { s with seq := { s.seq with inInitseq := true }, fault := some ⟨.csPairing, s.pc, 1⟩ })
      ∧ (PinsDiffer s.cfg → s.cfg.transcript ≠ [] → s.seq.csHeld = false → s.seq.panelReadyAt = none →
        ∃ d u, 10 ≤ d ∧ OthersRan s u
          ∧ exec .initseq s
            = .next
                { u with
                  now := s.now + d
                  fault := some ⟨.panelNotReady, s.pc, s.now + d⟩
                  seq :=
                    { s.seq with
                      log := s.seq.log ++ [.edge s.now s.cfg.csPin false, .delay s.now 10 d]
                      csLevel := .lo
                      csHeld := true
                      settleUntil := s.now + 10
                      inInitseq := true
                      ti := 0 } })

/-- R163: INITSEQ never completes in under 2 × T_CS and the sum of the post-delays; with a well-formed
transcript not in under 170, and not in under 180 when it has a separate mid-sequence entry. -/
def Obligations.InitseqTakesItsMinimumTime : Prop :=
  ∀ s t : State, InitseqCompletes s t →
    s.now + 2 * tCs + transcriptDelay s.cfg.transcript ≤ t.now
      ∧ (transcriptOk s.cfg = true → s.now + 170 ≤ t.now)
      ∧ (transcriptOk s.cfg = true → (∃ e ∈ s.cfg.transcript, e.role = .midDelay) →
          s.now + 180 ≤ t.now)

/-- R306: PRESET followed by INITSEQ takes at least 230 with a well-formed transcript, 240 with a
separate mid-sequence entry; DPCFG, BLSET, BUFALLOC and FLUSHREG take no time. -/
def Obligations.BringUpTakesItsMinimumTime : Prop :=
  (∀ s t u : State, transcriptOk s.cfg = true → exec .preset s = .next t → InitseqCompletes t u →
      s.now + 230 ≤ u.now
        ∧ ((∃ e ∈ s.cfg.transcript, e.role = .midDelay) → s.now + 240 ≤ u.now))
    ∧ ∀ (i : Instr) (s t : State), i.opcode ∈ [Opcode.dpcfg, .blset, .bufalloc, .flushreg] →
      exec i s = .next t → t.now = s.now

/-! ### CANQ (42_can_queue.md) -/

/-- R181 to R183: the first CANCFG with a depth of at least 1 completes in one of three ways, as the
install draw and then the start draw say. (That an odd draw is a success is the model's coding,
log 2.) -/
def Obligations.CancfgInstallsAndStarts : Prop :=
  ∀ (s : State) (c : BusConfig), s.can.tried = false → c.rxqDepth ≠ 0 →
    (drawVal s % 2 ≠ 1 →
        exec (.cancfg c) s
          = .next
              { s with
                pc := s.pc + 5, res := 1#8, diag := s.diag ++ [.installFailed]
                can := { s.can with tried := true }
                draws := s.draws + 1, script := s.script.tail })
      ∧ (drawVal s % 2 = 1 → drawVal (afterDraw s) % 2 ≠ 1 →
        exec (.cancfg c) s
          = .next
              { s with
                pc := s.pc + 5, res := 2#8, diag := s.diag ++ [.startFailed]
                can :=
                  { phase := .installed, tried := true, txPin := c.txPin, rxPin := c.rxPin
                    mode := c.mode, rxqDepth := BitVec.ofNat 16 c.rxqDepth
                    txqDepth := BitVec.ofNat 16 c.txqDepth, timing := c.timing, filter := c.filter
                    alertEn := c.alerts, alertStatus := 0#3, rxq := [], txq := []
                    dropped := s.can.dropped }
                draws := s.draws + 2, script := s.script.tail.tail })
      ∧ (drawVal s % 2 = 1 → drawVal (afterDraw s) % 2 = 1 →
        exec (.cancfg c) s
          = .next
              { s with
                pc := s.pc + 5, res := 0#8
                can :=
                  { phase := .running, tried := true, txPin := c.txPin, rxPin := c.rxPin
                    mode := c.mode, rxqDepth := BitVec.ofNat 16 c.rxqDepth
                    txqDepth := BitVec.ofNat 16 c.txqDepth, timing := c.timing, filter := c.filter
                    alertEn := c.alerts, alertStatus := 0#3, rxq := [], txq := []
                    dropped := s.can.dropped }
                draws := s.draws + 2, script := s.script.tail.tail })

/-- R190: CANRECV takes the oldest frame, or answers EMPTY at once. -/
def Obligations.CanrecvTakesTheOldest : Prop :=
  ∀ s : State,
    (∀ f fs, s.can.phase ≠ .uninstalled → s.can.rxq = f :: fs →
        exec .canrecv s
          = .next
              { s with
                pc := s.pc + 1, rframe := some f, res := 0#8, can := { s.can with rxq := fs } })
      ∧ (s.can.phase = .uninstalled ∨ s.can.rxq = [] →
        exec .canrecv s = .next { s with pc := s.pc + 1, rframe := none, res := 5#8 })

/-- R191: CANALRT reads the pending alerts into RVAL and clears them in one step; can_irq falls. -/
def Obligations.CanalrtReadsAndClears : Prop :=
  ∀ s : State,
    ∃ t, exec .canalrt s = .next t
      ∧ t = { s with
              pc := s.pc + 1, rval := s.can.alertStatus.zeroExtend 32, res := 0#8
              can := { s.can with alertStatus := 0#3 } }
      ∧ canIrq t = false

/-- R185, R187: CAN_RX can be the next step exactly while can_state is RUNNING, and is then a step with a
drawn frame. An accepted frame goes to the tail while there is room; a frame that finds the queue full is discarded, counted, and raises
QUEUE_FULL if enabled; a frame the filter does not accept changes nothing. -/
def Obligations.CanRxQueuesOrDrops : Prop :=
  ∀ (s : State) (f : Frame),
    (Turn.other .canRx ∈ enabledTurns s ↔ s.can.phase = .running)
      ∧ (ParamsOk s.cfg → nextTurn s = some (.other .canRx) →
        step s = .next (canStep (.rx ⟨drawVal (atTurn s)⟩) (afterDraw (atTurn s))))
      ∧ (accepts s.cfg s.can.filter f = false → canStep (.rx f) s = s)
      ∧ (accepts s.cfg s.can.filter f = true → s.can.rxq.length < s.can.rxqDepth.toNat →
        canStep (.rx f) s = { s with can := { s.can with rxq := s.can.rxq ++ [f] } })
      ∧ (accepts s.cfg s.can.filter f = true → s.can.rxqDepth.toNat ≤ s.can.rxq.length →
        canStep (.rx f) s
          = { s with
              can :=
                { s.can with
                  dropped := s.can.dropped + 1
                  alertStatus :=
                    if s.can.alertEn.getLsbD 0 then s.can.alertStatus ||| 1#3
                    else s.can.alertStatus } })

/-- R194: with depth 64 and an empty queue, up to 64 accepted frames are all kept and none is dropped;
of more, the first 64 are kept, the rest are dropped, and QUEUE_FULL is pending if enabled. -/
def Obligations.QueueOfDepth64DropsNothingBelow65 : Prop :=
  ∀ (s : State) (fs : List Frame), s.can.rxqDepth = 64#16 → s.can.rxq = [] → s.can.dropped = 0 →
    (∀ f ∈ fs, accepts s.cfg s.can.filter f = true) →
    (fs.foldl (fun u f => canStep (.rx f) u) s).can.rxq = fs.take 64
      ∧ (fs.foldl (fun u f => canStep (.rx f) u) s).can.dropped = fs.length - 64
      ∧ (fs.length ≤ 64 →
          (fs.foldl (fun u f => canStep (.rx f) u) s).can.alertStatus = s.can.alertStatus)
      ∧ (64 < fs.length → s.can.alertEn.getLsbD 0 = true →
          (fs.foldl (fun u f => canStep (.rx f) u) s).can.alertStatus.getLsbD 0 = true)

/-- R188, R189: a bus-error or error-passive event, enabled exactly while CAN is running, is a step that
sets its own status bit if that bit is enabled, and changes nothing else. -/
def Obligations.BusEventsOnlyRaiseTheirAlert : Prop :=
  ∀ s : State,
    (Turn.other .canBusErr ∈ enabledTurns s ↔ s.can.phase = .running)
      ∧ (Turn.other .canErrPass ∈ enabledTurns s ↔ s.can.phase = .running)
      ∧ (ParamsOk s.cfg → nextTurn s = some (.other .canBusErr) →
        step s = .next (canStep .busErr (atTurn s)))
      ∧ (ParamsOk s.cfg → nextTurn s = some (.other .canErrPass) →
        step s = .next (canStep .errPass (atTurn s)))
      ∧ canStep .busErr s
        = { s with
            can :=
              { s.can with
                alertStatus :=
                  if s.can.alertEn.getLsbD 1 then s.can.alertStatus ||| 2#3
                  else s.can.alertStatus } }
      ∧ canStep .errPass s
        = { s with
            can :=
              { s.can with
                alertStatus :=
                  if s.can.alertEn.getLsbD 2 then s.can.alertStatus ||| 4#3
                  else s.can.alertStatus } }

/-- R105: an operation of SEQ, RGBTC or BLIT leaves CANQ to CANENV's own steps, and does the same whatever
CANQ holds (the schedule alone asks whether can_state is RUNNING, R283: with CAN running on both sides
CANENV steps at the same places). A step of SCAN leaves CANQ alone and does the same whatever it holds.
CANQ's operations and CANENV's steps never write SEQ, RGBTC, BLIT, system memory or the clock, and do the
same whatever they are. -/
def Obligations.CanAndDisplayShareNoState : Prop :=
  (∀ (i : Instr) (s t : State), displaySide i = true → exec i s = .next t →
      (∃ u, OthersRan s u ∧ t.can = u.can)
        ∧ (∀ c : CanState, s.can.phase ≠ .running → c.phase ≠ .running →
            exec i { s with can := c } = .next { t with can := c })
        ∧ ∀ c : CanState, s.can.phase = .running → c.phase = .running →
            ∃ c', exec i { s with can := c } = .next { t with can := c' })
    ∧ (∀ (s : State) (c : CanState),
        (scanStep s).can = s.can ∧ scanStep { s with can := c } = { scanStep s with can := c })
    ∧ (∀ (i : Instr) (s t : State) (q : SeqState) (r : RgbState) (b : BlitState) (m : Memory) (n : Nat),
        displaySide i = false → exec i s = .next t →
        t.seq = s.seq ∧ t.rgb = s.rgb ∧ t.blit = s.blit ∧ t.mem = s.mem ∧ t.now = s.now
          ∧ exec i { s with seq := q, rgb := r, blit := b, mem := m, now := n }
            = .next { t with seq := q, rgb := r, blit := b, mem := m, now := n })
    ∧ ∀ (e : CanEvent) (s : State) (q : SeqState) (r : RgbState) (b : BlitState) (m : Memory) (n : Nat),
        (canStep e s).seq = s.seq ∧ (canStep e s).rgb = s.rgb ∧ (canStep e s).blit = s.blit
          ∧ (canStep e s).mem = s.mem ∧ (canStep e s).now = s.now
          ∧ canStep e { s with seq := q, rgb := r, blit := b, mem := m, now := n }
            = { canStep e s with seq := q, rgb := r, blit := b, mem := m, now := n }

/-! ### RGBTC (43_rgb_timing.md) -/

/-- R211, R213, R214, R215: after INITSEQ, the first DPCFG with a geometry that matches (R214, spelled out)
completes: with the handle created, every DP_* register has its field, the frame buffers exist with every
byte unwritten and scan-out may start; else dp_state is FAILED and the failure is reported. CANENV and
SCAN may step between the sub-steps: `u` is the state before the registers are written, `v` after.
(Odd is success: log 2.) -/
def Obligations.DpcfgStartsThePlane : Prop :=
  ∀ (s : State) (c : PlaneConfig), s.rgb.phase = .unconfigured →
    (c.hRes = s.cfg.panelW ∧ c.vRes = s.cfg.panelH ∧ c.bpp = s.cfg.bpp ∧ 1 ≤ c.fbCount
      ∧ 1 ≤ c.hsyncPw ∧ 1 ≤ c.vsyncPw ∧ 1 ≤ c.pclkHz ∧ 1 ≤ c.dataWidth) →
    s.seq.seqDone = true →
    (drawVal s % 2 = 1 →
        ∃ u v, OthersRan s u
          ∧ OthersRan
              { u with
                rgb :=
                  { u.rgb with
                    hsyncPw := BitVec.ofNat 16 c.hsyncPw, hbp := BitVec.ofNat 16 c.hbp
                    hfp := BitVec.ofNat 16 c.hfp, vsyncPw := BitVec.ofNat 16 c.vsyncPw
                    vbp := BitVec.ofNat 16 c.vbp, vfp := BitVec.ofNat 16 c.vfp
                    hRes := BitVec.ofNat 16 c.hRes, vRes := BitVec.ofNat 16 c.vRes
                    pclkHz := BitVec.ofNat 32 c.pclkHz, clkSrc := c.clkSrc
                    dataWidth := BitVec.ofNat 8 c.dataWidth, bpp := BitVec.ofNat 8 c.bpp
                    fbCount := BitVec.ofNat 8 c.fbCount, bouncePx := BitVec.ofNat 32 c.bouncePx
                    placement := if c.placement then 1#1 else 0#1
                    fb := List.replicate c.fbCount ⟨c.hRes * c.vRes * s.cfg.bytesPP, []⟩
                    phase := .running } } v
          ∧ exec (.dpcfg c) s = .next { v with pc := s.pc + 9, res := 0#8 })
      ∧ (drawVal s % 2 ≠ 1 →
        ∃ u v, OthersRan s u ∧ OthersRan { u with rgb := { u.rgb with phase := .failed } } v
          ∧ exec (.dpcfg c) s
            = .next { v with pc := s.pc + 9, res := 4#8, diag := s.diag ++ [.handleCreationFailed] })

/-- R224: with the data plane running, BLSET writes the floor of min(req, BL_MAX) × BL_FULL / BL_MAX;
a request of BL_MAX or more gives BL_FULL exactly and 0 gives 0. -/
def Obligations.BlsetWritesTheCappedDuty : Prop :=
  ∀ (s : State) (req : Nat), s.cfg.blMax ≠ 0 → s.rgb.phase = .running →
    ∃ duty, exec (.blset req) s
        = .next { s with pc := s.pc + 1, rgb := { s.rgb with blDuty := duty, blSet := true } }
      ∧ duty * s.cfg.blMax ≤ min req s.cfg.blMax * s.cfg.blFull
      ∧ min req s.cfg.blMax * s.cfg.blFull < (duty + 1) * s.cfg.blMax
      ∧ (s.cfg.blMax ≤ req → duty = s.cfg.blFull)
      ∧ (req = 0 → duty = 0)

/-- R54, R218 to R220, R258, R283: a step of SCAN can be the next one exactly while the data plane runs or
a frame is open, and it is FRAME_BEGIN with no frame open and FRAME_END with one. FRAME_BEGIN opens a frame of a buffer, buffer 0 when there is one, with each
byte's current value as the only one seen. While a frame of a buffer is open, every write of a byte to that
buffer adds it to what is seen at its index, and nothing else is added; a write to another buffer, or with
no frame open, adds nothing. FRAME_END emits a frame of PANEL_W × PANEL_H × BYTES_PP bytes, each one of
those seen at its index, or any value where "unwritten" is one. (The list `seenAt` for a set, and a frame
as the list of its bytes: the model's form, log 16.) -/
def Obligations.FrameShowsValuesHeldWhileOpen : Prop :=
  ∀ s : State,
    (Turn.other .scan ∈ enabledTurns s ↔ s.rgb.scanOpen = true ∨ s.rgb.phase = .running)
      ∧ (ParamsOk s.cfg → nextTurn s = some (.other .scan) → step s = .next (scanStep (atTurn s)))
      ∧ (s.rgb.scanOpen = false → scanStep s = frameBegin s)
      ∧ (s.rgb.scanOpen = true → scanStep s = frameEnd s)
      ∧ (∃ sel, (s.rgb.fbCount = 1#8 → sel = 0) ∧ (s.rgb.fbCount ≠ 0#8 → sel < s.rgb.fbCount.toNat)
        ∧ (frameBegin s).rgb
          = { s.rgb with scanOpen := true, scanSel := sel, scanSeen := (frameBegin s).rgb.scanSeen }
        ∧ ∀ i, seenAt (frameBegin s).rgb.scanSeen i = [(fbCells s.rgb sel).read i])
      ∧ (∀ (k i j : Nat) (b : Byte) (v : Option Byte),
          v ∈ seenAt (fbWrite k i b s.rgb).scanSeen j
            ↔ v ∈ seenAt s.rgb.scanSeen j
              ∨ (s.rgb.scanOpen = true ∧ s.rgb.scanSel = k ∧ j = i ∧ v = some b))
      ∧ ∃ f, (frameEnd s).rgb = { s.rgb with frames := s.rgb.frames ++ [f], scanOpen := false }
        ∧ f.length = s.cfg.panelH * s.cfg.panelW * s.cfg.bytesPP
        ∧ ∀ i v, f[i]? = some v →
          some v ∈ seenAt s.rgb.scanSeen i ∨ none ∈ seenAt s.rgb.scanSeen i

/-- R283: CANENV writes only rxq, dropped and CAN_ALERT_STATUS; SCAN writes only scan_open, scan_sel,
scan_seen and frames. -/
def Obligations.AgentsWriteOnlyTheirState : Prop :=
  ∀ s : State, (∀ e : CanEvent, OnlyReceptionChanges s (canStep e s)) ∧ OnlyScanChanges s (scanStep s)

/-! ### BLIT (44_blit.md) -/

/-- R241 to R243: the first BUFALLOC with legal operands completes: with a legal pair drawn (R243, spelled
out; `dmaCapable` is the platform's DMA_OK, log 12), the two buffers have the floor of
vw × vh × bpp / factor bytes each; with a null, allocation has failed and the graphics subsystem is
aborted. The third clause is the model's choice (DESIGN CHOICE, log 18): where two numbers that are no
legal pair are drawn, neither of them 0, they stand for a null. -/
def Obligations.BufallocAllocatesOrAborts : Prop :=
  ∀ (s : State) (vw vh bpp f size a1 a2 : Nat), s.blit.allocState = .none → f ≠ 0 →
    bpp = s.cfg.bytesPP → size = vw * vh * bpp / f → size ≠ 0 → a1 = drawVal s →
    a2 = drawVal (afterDraw s) →
    ∀ legal : Prop,
      (legal ↔
        a1 ≠ 0 ∧ a2 ≠ 0 ∧ a1 % 32 = 0 ∧ a2 % 32 = 0 ∧ a1 + size ≤ 2 ^ 32 ∧ a2 + size ≤ 2 ^ 32
          ∧ (∀ a, ¬ (a1 ≤ a ∧ a < a1 + size ∧ a2 ≤ a ∧ a < a2 + size))
          ∧ dmaCapable s.cfg a1 size = true ∧ dmaCapable s.cfg a2 size = true) →
      ∀ failed : State,
        failed
          = { s with
              pc := s.pc + 3, res := 3#8, diag := s.diag ++ [.allocationFailed]
              draws := s.draws + 2, script := s.script.tail.tail
              blit := { s.blit with allocState := .failed, gfxAborted := true } } →
        (legal →
            exec (.bufalloc vw vh bpp f) s
              = .next
                  { s with
                    pc := s.pc + 3, res := 0#8, draws := s.draws + 2, script := s.script.tail.tail
                    blit :=
                      { s.blit with
                        allocState := .ok, buf1 := BitVec.ofNat 32 a1, buf2 := BitVec.ofNat 32 a2
                        bufSize := size, allocVw := vw, allocVh := vh } })
          ∧ (a1 = 0 ∨ a2 = 0 → exec (.bufalloc vw vh bpp f) s = .next failed)
          ∧ (a1 ≠ 0 → a2 ≠ 0 → ¬ legal → exec (.bufalloc vw vh bpp f) s = .next failed)

/-- R246: FLUSHREG of the allocated canvas, without rotation, registers the flush front end once. -/
def Obligations.FlushregRegistersTheCanvas : Prop :=
  ∀ (s : State) (ox oy : Nat), s.blit.flushRegistered = false → s.blit.gfxAborted = false →
    s.blit.allocState ≠ .none →
    exec (.flushreg s.blit.allocVw s.blit.allocVh ox oy 0) s
      = .next
          { s with
            pc := s.pc + 4
            blit :=
              { s.blit with
                virtW := BitVec.ofNat 16 s.blit.allocVw, virtH := BitVec.ofNat 16 s.blit.allocVh
                offX := BitVec.ofNat 16 ox, offY := BitVec.ofNat 16 oy
                flushRegistered := true, regCount := s.blit.regCount + 1 } }

/-- R254 to R259, R263: a transferring BLIT copies every byte of the clamped window, from ex and ey of R255
and R256, from src(x, y) with the stride that BLIT_SRC_STRIDE names, to its frame-buffer index, and leaves
every other byte of frame buffer 0, every other frame buffer and system memory as they were; it counts
once. Beyond that only PC, the draws, and what CANENV and SCAN write between its sub-steps change. -/
def Obligations.BlitCopiesTheClampedWindow : Prop :=
  ∀ (s : State) (w : Window) (px : BitVec 32) (ex ey stride : Nat) (src : Nat → Nat → Nat),
    ex = min (w.xe + 1) s.cfg.panelW → ey = min (w.ye + 1) s.cfg.panelH →
    (s.cfg.srcStride = .clamped → stride = ex - w.xs) →
    (s.cfg.srcStride = .requested → stride = w.xe + 1 - w.xs) →
    (∀ x y, src x y = px.toNat + ((y - w.ys) * stride + (x - w.xs)) * s.cfg.bytesPP) →
    PlaneReady s w → w.xs < ex → w.ys < ey → px.toNat % s.cfg.bytesPP = 0 →
    (∀ x y j, w.xs ≤ x → x < ex → w.ys ≤ y → y < ey → j < s.cfg.bytesPP →
      memByte s.mem (src x y + j) ≠ none) →
    ∃ t, exec (.blit w.xs w.xe w.ys w.ye px) s = .next t
      ∧ (∀ x y j, w.xs ≤ x → x < ex → w.ys ≤ y → y < ey → j < s.cfg.bytesPP →
          (fbCells t.rgb 0).read ((y * s.rgb.hRes.toNat + x) * s.cfg.bytesPP + j)
            = memByte s.mem (src x y + j))
      ∧ (∀ i, (∀ x y j, w.xs ≤ x → x < ex → w.ys ≤ y → y < ey → j < s.cfg.bytesPP →
            i ≠ (y * s.rgb.hRes.toNat + x) * s.cfg.bytesPP + j) →
          (fbCells t.rgb 0).read i = (fbCells s.rgb 0).read i)
      ∧ (∀ k, k ≠ 0 → t.rgb.fb[k]? = s.rgb.fb[k]?)
      ∧ (∀ a, memByte t.mem a = memByte s.mem a)
      ∧ t.rgb
          = { s.rgb with
              fb := t.rgb.fb, scanOpen := t.rgb.scanOpen, scanSel := t.rgb.scanSel
              scanSeen := t.rgb.scanSeen, frames := t.rgb.frames }
      ∧ t.can
          = { s.can with rxq := t.can.rxq, dropped := t.can.dropped, alertStatus := t.can.alertStatus }
      ∧ (s.can.phase ≠ .running → t.can = s.can)
      ∧ t = { s with
              pc := s.pc + 4, rgb := t.rgb, blit := { s.blit with blitCalls := s.blit.blitCalls + 1 }
              can := t.can, draws := t.draws, script := t.script }

/-- R257: a window that is empty after clamping is no transfer: no read, no write, no count, whatever
the pointer. -/
def Obligations.DegenerateBlitTransfersNothing : Prop :=
  ∀ (s : State) (xs xe ys ye : Nat) (px : BitVec 32), s.rgb.phase = .running →
    (min (xe + 1) s.cfg.panelW ≤ xs ∨ min (ye + 1) s.cfg.panelH ≤ ys) →
    exec (.blit xs xe ys ye px) s = .next { s with pc := s.pc + 4 }

/-- R249, R262, R274, R275: a transferring BLIT, or a FLUSH of a good region whose moved window transfers,
with a misaligned pointer faults with the pointer; with an aligned one and a source byte never written it
faults with the address of the first such byte in address order. Either way nothing but FAULT changes: no
frame-buffer byte is written, and FLUSH signals no completion and extends no flush_log. (The model's
readings: the info is the first unwritten byte of R275 and not src(x, y) of R254, log 14, DEDUCED; an
address of 2^32 or more reads as never written, log 15, DEDUCED.) -/
def Obligations.FaultingBlitWritesNothing : Prop :=
  ∀ (s : State) (w : Window) (px : BitVec 32) (i : Instr), s.rgb.phase = .running →
    w.xs < clampX s.cfg w → w.ys < clampY s.cfg w →
    (i = .blit w.xs w.xe w.ys w.ye px
      ∨ ∃ x1 y1 x2 y2, i = .flush x1 y1 x2 y2 px
        ∧ w = ⟨x1 + s.blit.offX.toNat, x2 + s.blit.offX.toNat, y1 + s.blit.offY.toNat,
              y2 + s.blit.offY.toNat⟩
        ∧ s.blit.gfxAborted = false ∧ s.blit.flushRegistered = true
        ∧ pixelsOk s.cfg s.blit px.toNat x1 y1 x2 y2 = true) →
    (px.toNat % s.cfg.bytesPP ≠ 0 →
        exec i s = .next { s with fault := some ⟨.misaligned, s.pc, px.toNat⟩ })
      ∧ (px.toNat % s.cfg.bytesPP = 0 → ¬ SourceWritten s w px.toNat →
        ∃ x y j, w.xs ≤ x ∧ x < clampX s.cfg w ∧ w.ys ≤ y ∧ y < clampY s.cfg w ∧ j < s.cfg.bytesPP
          ∧ memByte s.mem (srcAddr s.cfg w px.toNat x y + j) = none
          ∧ (∀ x' y' j', w.xs ≤ x' → x' < clampX s.cfg w → w.ys ≤ y' → y' < clampY s.cfg w →
              j' < s.cfg.bytesPP →
              srcAddr s.cfg w px.toNat x' y' + j' < srcAddr s.cfg w px.toNat x y + j →
              memByte s.mem (srcAddr s.cfg w px.toNat x' y' + j') ≠ none)
          ∧ exec i s
            = .next
                { s with
                  fault := some ⟨.unwrittenRead, s.pc, srcAddr s.cfg w px.toNat x y + j⟩ })

/-- R249 to R252: FLUSH of a good region (R251, spelled out) runs BLIT on the region moved by the registered
offset, and after it, once, signals completion; a region that is empty after clamping gets its completion
too. CANENV and SCAN may step between the blit and the completion: `v` is the state as they leave it. -/
def Obligations.FlushBlitsThenSignalsOnce : Prop :=
  ∀ (s : State) (x1 y1 x2 y2 n : Nat) (px : BitVec 32) (w : Window),
    w = ⟨x1 + s.blit.offX.toNat, x2 + s.blit.offX.toNat, y1 + s.blit.offY.toNat,
          y2 + s.blit.offY.toNat⟩ →
    s.blit.gfxAborted = false → s.blit.flushRegistered = true →
    n = (if x1 ≤ x2 ∧ y1 ≤ y2 then (x2 - x1 + 1) * (y2 - y1 + 1) * s.cfg.bytesPP else 0) →
    (∃ b ∈ [s.blit.buf1.toNat, s.blit.buf2.toNat],
      b ≤ px.toNat ∧ px.toNat + n ≤ b + s.blit.bufSize) →
    PlaneReady s w →
    (w.xs < clampX s.cfg w → w.ys < clampY s.cfg w →
      px.toNat % s.cfg.bytesPP = 0 ∧ SourceWritten s w px.toNat) →
    ∃ u v, exec (.blit w.xs w.xe w.ys w.ye px) s = .next u
      ∧ u.fault = s.fault ∧ u.pc = s.pc + 4
      ∧ u.blit
          = { s.blit with
              blitCalls :=
                if w.xs < clampX s.cfg w ∧ w.ys < clampY s.cfg w then s.blit.blitCalls + 1
                else s.blit.blitCalls }
      ∧ OthersRan u v
      ∧ exec (.flush x1 y1 x2 y2 px) s
        = .next
            { v with
              blit :=
                { u.blit with
                  completions := s.blit.completions + 1
                  flushLog := s.blit.flushLog ++ [(w, s.blit.completions + 1)] } }

/-- R244, R246, R249: after a failed allocation FLUSH has no effect, nor has FLUSHREG without rotation
while nothing is registered: PC advances and reg_count stays as it is. -/
def Obligations.AbortedGraphicsHaveNoEffect : Prop :=
  ∀ s : State, s.blit.gfxAborted = true →
    (∀ (x1 y1 x2 y2 : Nat) (px : BitVec 32),
        exec (.flush x1 y1 x2 y2 px) s = .next { s with pc := s.pc + 4 })
      ∧ ∀ vw vh ox oy : Nat, s.blit.flushRegistered = false →
        exec (.flushreg vw vh ox oy 0) s = .next { s with pc := s.pc + 4 }

/-! ### Refusals and ordering faults (60_exceptions.md R277, R281; 70_reset_and_hazards.md R304) -/

/-- R281, in the order of R277: a refused request sets QMARK and changes nothing else, PC included; the
conditions of R214 (geometry) and R242 (size) are spelled out. The first clause is the model's choice
(DESIGN CHOICE, log 9) of how a parameter set that fails R8 or R14 is refused before it runs: no step
exists, QMARK is not set, BYTES_PP at least 1 and R15's two minima are checked with R8, and where both
checks fail badParameters is answered. -/
def Obligations.RefusedRequestsOnlySetQmark : Prop :=
  ∀ s : State,
    (∀ numbersGood transcriptGood : Prop,
      (numbersGood ↔
        1 ≤ s.cfg.panelW ∧ 1 ≤ s.cfg.panelH ∧ 1 ≤ s.cfg.bufFactor ∧ 1 ≤ s.cfg.bus.rxqDepth
          ∧ s.cfg.bpp = 8 * s.cfg.bytesPP ∧ 1 ≤ s.cfg.bytesPP
          ∧ 120 ≤ reqDelayOf s.cfg s.cfg.slpoutCode ∧ 20 ≤ reqDelayOf s.cfg s.cfg.disponCode) →
      (transcriptGood ↔
        s.cfg.transcript ≠ []
          ∧ (∃ e ∈ s.cfg.transcript, e.role = .sleepOut) ∧ (∃ e ∈ s.cfg.transcript, e.role = .powerCtl)
          ∧ (∃ e ∈ s.cfg.transcript, e.role = .displayOn)
          ∧ ∀ e ∈ s.cfg.transcript,
            (e.role = .sleepOut → 120 ≤ e.postDelay ∧ e.cmd = s.cfg.slpoutCode)
              ∧ (e.role = .powerCtl → 10 ≤ e.postDelay) ∧ (e.role = .midDelay → 10 ≤ e.postDelay)
              ∧ (e.role = .displayOn → 20 ≤ e.postDelay ∧ e.cmd = s.cfg.disponCode)) →
      (numbersGood ∧ transcriptGood ↔ ParamsOk s.cfg)
        ∧ (¬ numbersGood → step s = .refused .badParameters)
        ∧ (numbersGood → ¬ transcriptGood → step s = .refused .badTranscript))
      ∧ (∀ p l, ¬ PinsDiffer s.cfg → exec (.setpin p l) s = .next { s with qmark := some .param })
      ∧ (∀ req, s.cfg.blMax = 0 → exec (.blset req) s = .next { s with qmark := some .param })
      ∧ (∀ c, s.can.tried = true → exec (.cancfg c) s = .next { s with qmark := some .canReconfig })
      ∧ (∀ c, s.can.tried = false → c.rxqDepth = 0 →
          exec (.cancfg c) s = .next { s with qmark := some .zeroDepth })
      ∧ (∀ c, s.rgb.phase ≠ .unconfigured →
          exec (.dpcfg c) s = .next { s with qmark := some .dpReconfig })
      ∧ (∀ c : PlaneConfig, s.rgb.phase = .unconfigured →
          ¬ (c.hRes = s.cfg.panelW ∧ c.vRes = s.cfg.panelH ∧ c.bpp = s.cfg.bpp ∧ 1 ≤ c.fbCount
              ∧ 1 ≤ c.hsyncPw ∧ 1 ≤ c.vsyncPw ∧ 1 ≤ c.pclkHz ∧ 1 ≤ c.dataWidth) →
          exec (.dpcfg c) s = .next { s with qmark := some .geometry })
      ∧ (∀ vw vh bpp f, s.blit.allocState ≠ .none →
          exec (.bufalloc vw vh bpp f) s = .next { s with qmark := some .realloc })
      ∧ (∀ vw vh bpp, s.blit.allocState = .none →
          exec (.bufalloc vw vh bpp 0) s = .next { s with qmark := some .zeroFactor })
      ∧ (∀ vw vh bpp f, s.blit.allocState = .none → f ≠ 0 → bpp ≠ s.cfg.bytesPP →
          exec (.bufalloc vw vh bpp f) s = .next { s with qmark := some .geometry })
      ∧ (∀ vw vh bpp f, s.blit.allocState = .none → f ≠ 0 → bpp = s.cfg.bytesPP →
          vw * vh * bpp < f →
          exec (.bufalloc vw vh bpp f) s = .next { s with qmark := some .zeroSize })
      ∧ (∀ vw vh ox oy rot, rot ≠ 0 →
          exec (.flushreg vw vh ox oy rot) s = .next { s with qmark := some .rotation })
      ∧ (∀ vw vh ox oy, s.blit.flushRegistered = true →
          exec (.flushreg vw vh ox oy 0) s = .next { s with qmark := some .reregister })
      ∧ (∀ vw vh ox oy, s.blit.flushRegistered = false → s.blit.gfxAborted = false →
          s.blit.allocState ≠ .none → vw ≠ s.blit.allocVw ∨ vh ≠ s.blit.allocVh →
          exec (.flushreg vw vh ox oy 0) s = .next { s with qmark := some .geometry })

/-- R281, R153 to R156: a block whose reset and chip-select share a pin refuses what would drive either
line: PRESET, CSEN and CSDIS past their pairing check, and INITSEQ, with no effect. (That the operations
that call SETPIN are refused as it is: the model's reading, log 19.) -/
def Obligations.SharedPinRefusesTheLines : Prop :=
  ∀ s : State, s.cfg.rstPin = s.cfg.csPin →
    exec .preset s = .next { s with qmark := some .param }
      ∧ (s.seq.csHeld = false → exec .csen s = .next { s with qmark := some .param })
      ∧ (s.seq.csHeld = true → exec .csdis s = .next { s with qmark := some .param })
      ∧ (s.seq.csHeld = false → exec .initseq s = .next { s with qmark := some .param })

/-- R304, R272: what is done out of order faults with its PC and changes nothing but FAULT: DPCFG before
INITSEQ, BLSET and BLIT without the data plane, FLUSHREG before BUFALLOC, FLUSH before FLUSHREG, and
FLUSH of pixels outside both draw buffers. The conditions of R214 (geometry) and R251 (pixel range) are
spelled out. -/
def Obligations.OutOfOrderOperationsFault : Prop :=
  ∀ s : State,
    (∀ c : PlaneConfig, s.rgb.phase = .unconfigured →
        (c.hRes = s.cfg.panelW ∧ c.vRes = s.cfg.panelH ∧ c.bpp = s.cfg.bpp ∧ 1 ≤ c.fbCount
          ∧ 1 ≤ c.hsyncPw ∧ 1 ≤ c.vsyncPw ∧ 1 ≤ c.pclkHz ∧ 1 ≤ c.dataWidth) →
        s.seq.seqDone = false →
        exec (.dpcfg c) s = .next { s with fault := some ⟨.dpBeforeSeq, s.pc, s.pc⟩ })
      ∧ (∀ req, s.cfg.blMax ≠ 0 → s.rgb.phase ≠ .running →
          exec (.blset req) s = .next { s with fault := some ⟨.blBeforePanel, s.pc, s.pc⟩ })
      ∧ (∀ xs xe ys ye px, s.rgb.phase ≠ .running →
          exec (.blit xs xe ys ye px) s = .next { s with fault := some ⟨.blitNoPanel, s.pc, s.pc⟩ })
      ∧ (∀ vw vh ox oy, s.blit.flushRegistered = false → s.blit.gfxAborted = false →
          s.blit.allocState = .none →
          exec (.flushreg vw vh ox oy 0) s
            = .next { s with fault := some ⟨.regWithoutBuffers, s.pc, s.pc⟩ })
      ∧ (∀ x1 y1 x2 y2 px, s.blit.gfxAborted = false → s.blit.flushRegistered = false →
          exec (.flush x1 y1 x2 y2 px) s
            = .next { s with fault := some ⟨.flushUnregistered, s.pc, s.pc⟩ })
      ∧ ∀ (x1 y1 x2 y2 n : Nat) (px : BitVec 32) (inside : Prop), s.blit.gfxAborted = false →
          s.blit.flushRegistered = true →
          n = (if x1 ≤ x2 ∧ y1 ≤ y2 then (x2 - x1 + 1) * (y2 - y1 + 1) * s.cfg.bytesPP else 0) →
          (inside ↔
            ∃ b ∈ [s.blit.buf1.toNat, s.blit.buf2.toNat],
              b ≤ px.toNat ∧ px.toNat + n ≤ b + s.blit.bufSize) →
          (¬ inside →
              exec (.flush x1 y1 x2 y2 px) s
                = .next { s with fault := some ⟨.badPixels, s.pc, s.pc⟩ })
            ∧ (inside → s.rgb.phase ≠ .running →
              exec (.flush x1 y1 x2 y2 px) s
                = .next { s with fault := some ⟨.blitNoPanel, s.pc, s.pc⟩ })

/-! ### The machine -/

/-- R34, R36, R59, R60: every step keeps the host port's and system memory's form. -/
def Obligations.StepKeepsHostPortAndMemory : Prop :=
  ∀ s t : State, HostInv s → MemInv s → step s = .next t → HostInv t ∧ MemInv t

/-- R149, R150: every step keeps SEQ's record of the lines consistent. That busy is 0, that in_initseq is 1
only at a fault and that TI is 0 outside it are clauses about the ends of steps: they hold because a whole
descriptor is one step of the model (DESIGN CHOICE, log 1). Between the sub-steps of INITSEQ, where CANENV
and SCAN step, in_initseq is 1 with no fault, and busy is 1 during a word. -/
def Obligations.StepKeepsSequencerConsistent : Prop :=
  ∀ s t : State, SeqInv s → step s = .next t → SeqInv t

/-- R47, R48, R185, R195: every step keeps the receive queue bounded, disabled alerts clear and the
transmit queue empty. -/
def Obligations.StepKeepsCanQueueBounded : Prop :=
  ∀ s t : State, CanInv s → step s = .next t → CanInv t

/-- R53, R54, R55, R212, R214, R219: every step keeps the frame buffers of the panel's size with every
written index inside, what an open frame has seen with the shown buffer's current bytes among it, and the
data plane and the backlight behind INITSEQ. -/
def Obligations.StepKeepsFrameBuffersInBounds : Prop :=
  ∀ s t : State, RgbInv s → step s = .next t → RgbInv t

/-- R95, R243, R244, R252: every step keeps the draw buffers a legal pair, registration behind
allocation, and one completion for each flush. -/
def Obligations.StepKeepsDrawBuffersLegal : Prop :=
  ∀ s t : State, BlitInv s → step s = .next t → BlitInv t

/-- R61, R82, R300: the invariants hold right after reset, whatever the parameters, the program, the
launch's pixels (in memory's form), the draws, and the values `x` of the elements that reset leaves
unspecified; so they hold of State.reset. -/
def Obligations.ResetHasTheInvariants : Prop :=
  (∀ (x s : State) (p : Params) (d : List Word) (m : Memory) (sc : List Nat), m.wf = true →
      Memory.under addrSpace m = true → s = withUnspecified x (State.launch p d m sc) →
      HostInv s ∧ MemInv s ∧ SeqInv s ∧ CanInv s ∧ RgbInv s ∧ BlitInv s)
    ∧ HostInv State.reset ∧ MemInv State.reset ∧ SeqInv State.reset ∧ CanInv State.reset
    ∧ RgbInv State.reset ∧ BlitInv State.reset

/-- R276: no step clears FAULT or QMARK or changes what they hold. -/
def Obligations.FaultAndRefusalAreSticky : Prop :=
  ∀ s t : State, step s = .next t →
    (∀ r, s.fault = some r → t.fault = some r) ∧ (∀ q, s.qmark = some q → t.qmark = some q)

/-- R140, R273, R289: after a fault, a refusal or the end of the program HOST takes no step: every step is
an event of the CAN bus, while CAN runs, or a step of SCAN, while the data plane runs or a frame is open,
in the state with its draws taken; and while CAN or the data plane runs or a frame is open, there is a
step. The last clause is the model's choice of what a step is where there is
none: the answers stoppedByFault, stoppedByRefusal and endOfProgram (DESIGN CHOICE, log 8); so is that a
PC past the end is the end of the program (DESIGN CHOICE, log 22). -/
def Obligations.StoppedHostTakesNoStep : Prop :=
  ∀ s : State, ParamsOk s.cfg → (s.fault ≠ none ∨ s.qmark ≠ none ∨ s.desc.length ≤ s.pc) →
    (∀ t, step s = .next t →
        ∃ u, u = { s with draws := u.draws, script := u.script }
          ∧ ((s.can.phase = .running ∧ ∃ e, t = canStep e u)
            ∨ ((s.rgb.phase = .running ∨ s.rgb.scanOpen = true) ∧ t = scanStep u)))
      ∧ (s.can.phase = .running ∨ s.rgb.phase = .running ∨ s.rgb.scanOpen = true →
          ∃ t, step s = .next t)
      ∧ (s.can.phase ≠ .running → s.rgb.phase ≠ .running → s.rgb.scanOpen = false →
          step s = .fault (if s.fault ≠ none then .stoppedByFault
            else if s.qmark ≠ none then .stoppedByRefusal else .endOfProgram))

/-- R38, R40: the clock never goes back, and the transfer log is only appended to. -/
def Obligations.ClockAndLogOnlyGrow : Prop :=
  ∀ s t : State, step s = .next t → s.now ≤ t.now ∧ ∃ evs, t.seq.log = s.seq.log ++ evs

/-- R59, R81, R103: no step writes system memory, descriptor memory or the parameters (the transcript
among them). -/
def Obligations.NoStepWritesMemoryOrProgram : Prop :=
  ∀ s t : State, step s = .next t →
    t.desc = s.desc ∧ t.cfg = s.cfg ∧ ∀ a, memByte t.mem a = memByte s.mem a

/-- R32, R33, R60: RES is written only by CANCFG, CANRECV, CANALRT, DPCFG and BUFALLOC and only with a
status code, RVAL only by CANALRT and only with alert bits, RFRAME only by CANRECV, diag only by CANCFG,
DPCFG and BUFALLOC; a frame buffer only by BLIT, FLUSH and DPCFG. -/
def Obligations.ResultsAreWrittenOnlyByTheirOperations : Prop :=
  ∀ (i : Instr) (s t : State), exec i s = .next t →
    (i.opcode ∉ [Opcode.cancfg, .canrecv, .canalrt, .dpcfg, .bufalloc] → t.res = s.res)
      ∧ (t.res = s.res ∨ t.res.toNat ≤ 5)
      ∧ (i.opcode ≠ .canalrt → t.rval = s.rval)
      ∧ (t.rval = s.rval ∨ t.rval.toNat < 8)
      ∧ (i.opcode ≠ .canrecv → t.rframe = s.rframe)
      ∧ (i.opcode ∉ [Opcode.cancfg, .dpcfg, .bufalloc] → t.diag = s.diag)
      ∧ (i.opcode ∉ [Opcode.blit, .flush, .dpcfg] → t.rgb.fb = s.rgb.fb)

/-- R184: once CANCFG has run, no step changes a CAN_* configuration register or can_state, and a second
CANCFG is refused. -/
def Obligations.CanConfigurationIsImmutable : Prop :=
  ∀ s : State, s.can.tried = true →
    (∀ t, step s = .next t →
        t.can
          = { s.can with
              rxq := t.can.rxq, dropped := t.can.dropped, alertStatus := t.can.alertStatus })
      ∧ ∀ c, exec (.cancfg c) s = .next { s with qmark := some .canReconfig }

/-- R61, R300 to R302: block reset leaves every element with a stated reset value at that value,
whatever the state before and whatever the unspecified ones are; it keeps the program and the
parameters. (scan_seen's "empty" is in the form of log 16.) -/
def Obligations.BlockResetRestoresTheResetTable : Prop :=
  ∀ (px : Memory) (x s t : State), t = blockReset x px s →
    t.pc = 0 ∧ t.fault = none ∧ t.qmark = none ∧ t.now = 0
      ∧ t.seq.rstLevel = .x ∧ t.seq.csLevel = .x ∧ t.seq.log = [] ∧ t.seq.csHeld = false
      ∧ t.seq.busy = false ∧ t.seq.seqDone = false ∧ t.seq.inInitseq = false ∧ t.seq.ti = 0
      ∧ t.seq.rstLowAt = none ∧ t.seq.panelReadyAt = none
      ∧ t.seq.quietUntil = 0 ∧ t.seq.curReq = 0 ∧ t.seq.settleUntil = 0
      ∧ t.can.phase = .uninstalled ∧ t.can.tried = false ∧ t.can.alertEn = 0#3
      ∧ t.can.alertStatus = 0#3 ∧ t.can.rxq = [] ∧ t.can.txq = [] ∧ t.can.dropped = 0
      ∧ canIrq t = false
      ∧ t.rgb.phase = .unconfigured ∧ t.rgb.fb = [] ∧ t.rgb.scanOpen = false ∧ t.rgb.scanSel = 0
      ∧ t.rgb.scanSeen = ⟨[], []⟩ ∧ t.rgb.frames = [] ∧ t.rgb.blSet = false
      ∧ t.blit.allocState = .none ∧ t.blit.gfxAborted = false ∧ t.blit.flushRegistered = false
      ∧ t.blit.regCount = 0 ∧ t.blit.blitCalls = 0 ∧ t.blit.completions = 0 ∧ t.blit.flushLog = []
      ∧ t.mem = px ∧ t.diag = [] ∧ t.desc = s.desc ∧ t.cfg = s.cfg
end

