-- ==== Sys2Proof/Laws/State.lean ====
section
/-! SUPPORT. One lemma per field and named update of the state, true by unfolding: later proofs cite
these and never unfold a record update. -/

namespace Sys2Proof.Machine

variable (s : State)

/-! ### afterDraw -/

@[simp] theorem afterDraw_cfg : (afterDraw s).cfg = s.cfg := rfl
@[simp] theorem afterDraw_desc : (afterDraw s).desc = s.desc := rfl
@[simp] theorem afterDraw_pc : (afterDraw s).pc = s.pc := rfl
@[simp] theorem afterDraw_res : (afterDraw s).res = s.res := rfl
@[simp] theorem afterDraw_rval : (afterDraw s).rval = s.rval := rfl
@[simp] theorem afterDraw_rframe : (afterDraw s).rframe = s.rframe := rfl
@[simp] theorem afterDraw_fault : (afterDraw s).fault = s.fault := rfl
@[simp] theorem afterDraw_qmark : (afterDraw s).qmark = s.qmark := rfl
@[simp] theorem afterDraw_now : (afterDraw s).now = s.now := rfl
@[simp] theorem afterDraw_seq : (afterDraw s).seq = s.seq := rfl
@[simp] theorem afterDraw_can : (afterDraw s).can = s.can := rfl
@[simp] theorem afterDraw_rgb : (afterDraw s).rgb = s.rgb := rfl
@[simp] theorem afterDraw_blit : (afterDraw s).blit = s.blit := rfl
@[simp] theorem afterDraw_mem : (afterDraw s).mem = s.mem := rfl
@[simp] theorem afterDraw_diag : (afterDraw s).diag = s.diag := rfl
@[simp] theorem afterDraw_draws : (afterDraw s).draws = s.draws + 1 := rfl
@[simp] theorem afterDraw_script : (afterDraw s).script = s.script.tail := rfl

/-! ### raiseFault -/

@[simp] theorem raiseFault_cfg (c : FaultCode) (info : Nat) : (raiseFault c info s).cfg = s.cfg := rfl
@[simp] theorem raiseFault_desc (c : FaultCode) (info : Nat) : (raiseFault c info s).desc = s.desc := rfl
@[simp] theorem raiseFault_pc (c : FaultCode) (info : Nat) : (raiseFault c info s).pc = s.pc := rfl
@[simp] theorem raiseFault_res (c : FaultCode) (info : Nat) : (raiseFault c info s).res = s.res := rfl
@[simp] theorem raiseFault_rval (c : FaultCode) (info : Nat) : (raiseFault c info s).rval = s.rval := rfl
@[simp] theorem raiseFault_rframe (c : FaultCode) (info : Nat) : (raiseFault c info s).rframe = s.rframe := rfl
@[simp] theorem raiseFault_fault (c : FaultCode) (info : Nat) : (raiseFault c info s).fault = some ⟨c, s.pc, info⟩ := rfl
@[simp] theorem raiseFault_qmark (c : FaultCode) (info : Nat) : (raiseFault c info s).qmark = s.qmark := rfl
@[simp] theorem raiseFault_now (c : FaultCode) (info : Nat) : (raiseFault c info s).now = s.now := rfl
@[simp] theorem raiseFault_seq (c : FaultCode) (info : Nat) : (raiseFault c info s).seq = s.seq := rfl
@[simp] theorem raiseFault_can (c : FaultCode) (info : Nat) : (raiseFault c info s).can = s.can := rfl
@[simp] theorem raiseFault_rgb (c : FaultCode) (info : Nat) : (raiseFault c info s).rgb = s.rgb := rfl
@[simp] theorem raiseFault_blit (c : FaultCode) (info : Nat) : (raiseFault c info s).blit = s.blit := rfl
@[simp] theorem raiseFault_mem (c : FaultCode) (info : Nat) : (raiseFault c info s).mem = s.mem := rfl
@[simp] theorem raiseFault_diag (c : FaultCode) (info : Nat) : (raiseFault c info s).diag = s.diag := rfl
@[simp] theorem raiseFault_draws (c : FaultCode) (info : Nat) : (raiseFault c info s).draws = s.draws := rfl
@[simp] theorem raiseFault_script (c : FaultCode) (info : Nat) : (raiseFault c info s).script = s.script := rfl

/-! ### refuse -/

@[simp] theorem refuse_cfg (q : RefuseReason) : (refuse q s).cfg = s.cfg := rfl
@[simp] theorem refuse_desc (q : RefuseReason) : (refuse q s).desc = s.desc := rfl
@[simp] theorem refuse_pc (q : RefuseReason) : (refuse q s).pc = s.pc := rfl
@[simp] theorem refuse_res (q : RefuseReason) : (refuse q s).res = s.res := rfl
@[simp] theorem refuse_rval (q : RefuseReason) : (refuse q s).rval = s.rval := rfl
@[simp] theorem refuse_rframe (q : RefuseReason) : (refuse q s).rframe = s.rframe := rfl
@[simp] theorem refuse_fault (q : RefuseReason) : (refuse q s).fault = s.fault := rfl
@[simp] theorem refuse_qmark (q : RefuseReason) : (refuse q s).qmark = some q := rfl
@[simp] theorem refuse_now (q : RefuseReason) : (refuse q s).now = s.now := rfl
@[simp] theorem refuse_seq (q : RefuseReason) : (refuse q s).seq = s.seq := rfl
@[simp] theorem refuse_can (q : RefuseReason) : (refuse q s).can = s.can := rfl
@[simp] theorem refuse_rgb (q : RefuseReason) : (refuse q s).rgb = s.rgb := rfl
@[simp] theorem refuse_blit (q : RefuseReason) : (refuse q s).blit = s.blit := rfl
@[simp] theorem refuse_mem (q : RefuseReason) : (refuse q s).mem = s.mem := rfl
@[simp] theorem refuse_diag (q : RefuseReason) : (refuse q s).diag = s.diag := rfl
@[simp] theorem refuse_draws (q : RefuseReason) : (refuse q s).draws = s.draws := rfl
@[simp] theorem refuse_script (q : RefuseReason) : (refuse q s).script = s.script := rfl

/-! ### advancePc -/

@[simp] theorem advancePc_cfg (n : Nat) : (advancePc n s).cfg = s.cfg := rfl
@[simp] theorem advancePc_desc (n : Nat) : (advancePc n s).desc = s.desc := rfl
@[simp] theorem advancePc_pc (n : Nat) : (advancePc n s).pc = s.pc + n := rfl
@[simp] theorem advancePc_res (n : Nat) : (advancePc n s).res = s.res := rfl
@[simp] theorem advancePc_rval (n : Nat) : (advancePc n s).rval = s.rval := rfl
@[simp] theorem advancePc_rframe (n : Nat) : (advancePc n s).rframe = s.rframe := rfl
@[simp] theorem advancePc_fault (n : Nat) : (advancePc n s).fault = s.fault := rfl
@[simp] theorem advancePc_qmark (n : Nat) : (advancePc n s).qmark = s.qmark := rfl
@[simp] theorem advancePc_now (n : Nat) : (advancePc n s).now = s.now := rfl
@[simp] theorem advancePc_seq (n : Nat) : (advancePc n s).seq = s.seq := rfl
@[simp] theorem advancePc_can (n : Nat) : (advancePc n s).can = s.can := rfl
@[simp] theorem advancePc_rgb (n : Nat) : (advancePc n s).rgb = s.rgb := rfl
@[simp] theorem advancePc_blit (n : Nat) : (advancePc n s).blit = s.blit := rfl
@[simp] theorem advancePc_mem (n : Nat) : (advancePc n s).mem = s.mem := rfl
@[simp] theorem advancePc_diag (n : Nat) : (advancePc n s).diag = s.diag := rfl
@[simp] theorem advancePc_draws (n : Nat) : (advancePc n s).draws = s.draws := rfl
@[simp] theorem advancePc_script (n : Nat) : (advancePc n s).script = s.script := rfl

/-! ### setStatus -/

@[simp] theorem setStatus_cfg (st : Status) : (setStatus st s).cfg = s.cfg := rfl
@[simp] theorem setStatus_desc (st : Status) : (setStatus st s).desc = s.desc := rfl
@[simp] theorem setStatus_pc (st : Status) : (setStatus st s).pc = s.pc := rfl
@[simp] theorem setStatus_res (st : Status) : (setStatus st s).res = st.code := rfl
@[simp] theorem setStatus_rval (st : Status) : (setStatus st s).rval = s.rval := rfl
@[simp] theorem setStatus_rframe (st : Status) : (setStatus st s).rframe = s.rframe := rfl
@[simp] theorem setStatus_fault (st : Status) : (setStatus st s).fault = s.fault := rfl
@[simp] theorem setStatus_qmark (st : Status) : (setStatus st s).qmark = s.qmark := rfl
@[simp] theorem setStatus_now (st : Status) : (setStatus st s).now = s.now := rfl
@[simp] theorem setStatus_seq (st : Status) : (setStatus st s).seq = s.seq := rfl
@[simp] theorem setStatus_can (st : Status) : (setStatus st s).can = s.can := rfl
@[simp] theorem setStatus_rgb (st : Status) : (setStatus st s).rgb = s.rgb := rfl
@[simp] theorem setStatus_blit (st : Status) : (setStatus st s).blit = s.blit := rfl
@[simp] theorem setStatus_mem (st : Status) : (setStatus st s).mem = s.mem := rfl
@[simp] theorem setStatus_diag (st : Status) : (setStatus st s).diag = s.diag := rfl
@[simp] theorem setStatus_draws (st : Status) : (setStatus st s).draws = s.draws := rfl
@[simp] theorem setStatus_script (st : Status) : (setStatus st s).script = s.script := rfl

/-! ### reportFailure -/

@[simp] theorem reportFailure_cfg (st : Status) : (reportFailure st s).cfg = s.cfg := rfl
@[simp] theorem reportFailure_desc (st : Status) : (reportFailure st s).desc = s.desc := rfl
@[simp] theorem reportFailure_pc (st : Status) : (reportFailure st s).pc = s.pc := rfl
@[simp] theorem reportFailure_res (st : Status) : (reportFailure st s).res = st.code := rfl
@[simp] theorem reportFailure_rval (st : Status) : (reportFailure st s).rval = s.rval := rfl
@[simp] theorem reportFailure_rframe (st : Status) : (reportFailure st s).rframe = s.rframe := rfl
@[simp] theorem reportFailure_fault (st : Status) : (reportFailure st s).fault = s.fault := rfl
@[simp] theorem reportFailure_qmark (st : Status) : (reportFailure st s).qmark = s.qmark := rfl
@[simp] theorem reportFailure_now (st : Status) : (reportFailure st s).now = s.now := rfl
@[simp] theorem reportFailure_seq (st : Status) : (reportFailure st s).seq = s.seq := rfl
@[simp] theorem reportFailure_can (st : Status) : (reportFailure st s).can = s.can := rfl
@[simp] theorem reportFailure_rgb (st : Status) : (reportFailure st s).rgb = s.rgb := rfl
@[simp] theorem reportFailure_blit (st : Status) : (reportFailure st s).blit = s.blit := rfl
@[simp] theorem reportFailure_mem (st : Status) : (reportFailure st s).mem = s.mem := rfl
@[simp] theorem reportFailure_diag (st : Status) : (reportFailure st s).diag = s.diag ++ [st] := rfl
@[simp] theorem reportFailure_draws (st : Status) : (reportFailure st s).draws = s.draws := rfl
@[simp] theorem reportFailure_script (st : Status) : (reportFailure st s).script = s.script := rfl

/-! ### passTime -/

@[simp] theorem passTime_cfg (d : Nat) : (passTime d s).cfg = s.cfg := rfl
@[simp] theorem passTime_desc (d : Nat) : (passTime d s).desc = s.desc := rfl
@[simp] theorem passTime_pc (d : Nat) : (passTime d s).pc = s.pc := rfl
@[simp] theorem passTime_res (d : Nat) : (passTime d s).res = s.res := rfl
@[simp] theorem passTime_rval (d : Nat) : (passTime d s).rval = s.rval := rfl
@[simp] theorem passTime_rframe (d : Nat) : (passTime d s).rframe = s.rframe := rfl
@[simp] theorem passTime_fault (d : Nat) : (passTime d s).fault = s.fault := rfl
@[simp] theorem passTime_qmark (d : Nat) : (passTime d s).qmark = s.qmark := rfl
@[simp] theorem passTime_now (d : Nat) : (passTime d s).now = s.now + d := rfl
@[simp] theorem passTime_seq (d : Nat) : (passTime d s).seq = s.seq := rfl
@[simp] theorem passTime_can (d : Nat) : (passTime d s).can = s.can := rfl
@[simp] theorem passTime_rgb (d : Nat) : (passTime d s).rgb = s.rgb := rfl
@[simp] theorem passTime_blit (d : Nat) : (passTime d s).blit = s.blit := rfl
@[simp] theorem passTime_mem (d : Nat) : (passTime d s).mem = s.mem := rfl
@[simp] theorem passTime_diag (d : Nat) : (passTime d s).diag = s.diag := rfl
@[simp] theorem passTime_draws (d : Nat) : (passTime d s).draws = s.draws := rfl
@[simp] theorem passTime_script (d : Nat) : (passTime d s).script = s.script := rfl

/-! ### logDelay -/

@[simp] theorem logDelay_cfg (n d : Nat) : (logDelay n d s).cfg = s.cfg := rfl
@[simp] theorem logDelay_desc (n d : Nat) : (logDelay n d s).desc = s.desc := rfl
@[simp] theorem logDelay_pc (n d : Nat) : (logDelay n d s).pc = s.pc := rfl
@[simp] theorem logDelay_res (n d : Nat) : (logDelay n d s).res = s.res := rfl
@[simp] theorem logDelay_rval (n d : Nat) : (logDelay n d s).rval = s.rval := rfl
@[simp] theorem logDelay_rframe (n d : Nat) : (logDelay n d s).rframe = s.rframe := rfl
@[simp] theorem logDelay_fault (n d : Nat) : (logDelay n d s).fault = s.fault := rfl
@[simp] theorem logDelay_qmark (n d : Nat) : (logDelay n d s).qmark = s.qmark := rfl
@[simp] theorem logDelay_now (n d : Nat) : (logDelay n d s).now = s.now := rfl
@[simp] theorem logDelay_seq (n d : Nat) : (logDelay n d s).seq = { s.seq with log := s.seq.log ++ [.delay s.now n d] } := rfl
@[simp] theorem logDelay_can (n d : Nat) : (logDelay n d s).can = s.can := rfl
@[simp] theorem logDelay_rgb (n d : Nat) : (logDelay n d s).rgb = s.rgb := rfl
@[simp] theorem logDelay_blit (n d : Nat) : (logDelay n d s).blit = s.blit := rfl
@[simp] theorem logDelay_mem (n d : Nat) : (logDelay n d s).mem = s.mem := rfl
@[simp] theorem logDelay_diag (n d : Nat) : (logDelay n d s).diag = s.diag := rfl
@[simp] theorem logDelay_draws (n d : Nat) : (logDelay n d s).draws = s.draws := rfl
@[simp] theorem logDelay_script (n d : Nat) : (logDelay n d s).script = s.script := rfl

/-! ### beginWord -/

@[simp] theorem beginWord_cfg : (beginWord s).cfg = s.cfg := rfl
@[simp] theorem beginWord_desc : (beginWord s).desc = s.desc := rfl
@[simp] theorem beginWord_pc : (beginWord s).pc = s.pc := rfl
@[simp] theorem beginWord_res : (beginWord s).res = s.res := rfl
@[simp] theorem beginWord_rval : (beginWord s).rval = s.rval := rfl
@[simp] theorem beginWord_rframe : (beginWord s).rframe = s.rframe := rfl
@[simp] theorem beginWord_fault : (beginWord s).fault = s.fault := rfl
@[simp] theorem beginWord_qmark : (beginWord s).qmark = s.qmark := rfl
@[simp] theorem beginWord_now : (beginWord s).now = s.now := rfl
@[simp] theorem beginWord_seq : (beginWord s).seq = { s.seq with busy := true } := rfl
@[simp] theorem beginWord_can : (beginWord s).can = s.can := rfl
@[simp] theorem beginWord_rgb : (beginWord s).rgb = s.rgb := rfl
@[simp] theorem beginWord_blit : (beginWord s).blit = s.blit := rfl
@[simp] theorem beginWord_mem : (beginWord s).mem = s.mem := rfl
@[simp] theorem beginWord_diag : (beginWord s).diag = s.diag := rfl
@[simp] theorem beginWord_draws : (beginWord s).draws = s.draws := rfl
@[simp] theorem beginWord_script : (beginWord s).script = s.script := rfl

/-! ### endWord -/

@[simp] theorem endWord_cfg (tag : Tag) (b : Byte) (req : Nat) (seen : Bool) (d : Nat) : (endWord tag b req seen d s).cfg = s.cfg := rfl
@[simp] theorem endWord_desc (tag : Tag) (b : Byte) (req : Nat) (seen : Bool) (d : Nat) : (endWord tag b req seen d s).desc = s.desc := rfl
@[simp] theorem endWord_pc (tag : Tag) (b : Byte) (req : Nat) (seen : Bool) (d : Nat) : (endWord tag b req seen d s).pc = s.pc := rfl
@[simp] theorem endWord_res (tag : Tag) (b : Byte) (req : Nat) (seen : Bool) (d : Nat) : (endWord tag b req seen d s).res = s.res := rfl
@[simp] theorem endWord_rval (tag : Tag) (b : Byte) (req : Nat) (seen : Bool) (d : Nat) : (endWord tag b req seen d s).rval = s.rval := rfl
@[simp] theorem endWord_rframe (tag : Tag) (b : Byte) (req : Nat) (seen : Bool) (d : Nat) : (endWord tag b req seen d s).rframe = s.rframe := rfl
@[simp] theorem endWord_fault (tag : Tag) (b : Byte) (req : Nat) (seen : Bool) (d : Nat) : (endWord tag b req seen d s).fault = s.fault := rfl
@[simp] theorem endWord_qmark (tag : Tag) (b : Byte) (req : Nat) (seen : Bool) (d : Nat) : (endWord tag b req seen d s).qmark = s.qmark := rfl
@[simp] theorem endWord_now (tag : Tag) (b : Byte) (req : Nat) (seen : Bool) (d : Nat) : (endWord tag b req seen d s).now = s.now + d := rfl
@[simp] theorem endWord_can (tag : Tag) (b : Byte) (req : Nat) (seen : Bool) (d : Nat) : (endWord tag b req seen d s).can = s.can := rfl
@[simp] theorem endWord_rgb (tag : Tag) (b : Byte) (req : Nat) (seen : Bool) (d : Nat) : (endWord tag b req seen d s).rgb = s.rgb := rfl
@[simp] theorem endWord_blit (tag : Tag) (b : Byte) (req : Nat) (seen : Bool) (d : Nat) : (endWord tag b req seen d s).blit = s.blit := rfl
@[simp] theorem endWord_mem (tag : Tag) (b : Byte) (req : Nat) (seen : Bool) (d : Nat) : (endWord tag b req seen d s).mem = s.mem := rfl
@[simp] theorem endWord_diag (tag : Tag) (b : Byte) (req : Nat) (seen : Bool) (d : Nat) : (endWord tag b req seen d s).diag = s.diag := rfl
@[simp] theorem endWord_draws (tag : Tag) (b : Byte) (req : Nat) (seen : Bool) (d : Nat) : (endWord tag b req seen d s).draws = s.draws := rfl
@[simp] theorem endWord_script (tag : Tag) (b : Byte) (req : Nat) (seen : Bool) (d : Nat) : (endWord tag b req seen d s).script = s.script := rfl

/-! ### setCsHeld -/

@[simp] theorem setCsHeld_cfg (b : Bool) : (setCsHeld b s).cfg = s.cfg := rfl
@[simp] theorem setCsHeld_desc (b : Bool) : (setCsHeld b s).desc = s.desc := rfl
@[simp] theorem setCsHeld_pc (b : Bool) : (setCsHeld b s).pc = s.pc := rfl
@[simp] theorem setCsHeld_res (b : Bool) : (setCsHeld b s).res = s.res := rfl
@[simp] theorem setCsHeld_rval (b : Bool) : (setCsHeld b s).rval = s.rval := rfl
@[simp] theorem setCsHeld_rframe (b : Bool) : (setCsHeld b s).rframe = s.rframe := rfl
@[simp] theorem setCsHeld_fault (b : Bool) : (setCsHeld b s).fault = s.fault := rfl
@[simp] theorem setCsHeld_qmark (b : Bool) : (setCsHeld b s).qmark = s.qmark := rfl
@[simp] theorem setCsHeld_now (b : Bool) : (setCsHeld b s).now = s.now := rfl
@[simp] theorem setCsHeld_seq (b : Bool) : (setCsHeld b s).seq = { s.seq with csHeld := b } := rfl
@[simp] theorem setCsHeld_can (b : Bool) : (setCsHeld b s).can = s.can := rfl
@[simp] theorem setCsHeld_rgb (b : Bool) : (setCsHeld b s).rgb = s.rgb := rfl
@[simp] theorem setCsHeld_blit (b : Bool) : (setCsHeld b s).blit = s.blit := rfl
@[simp] theorem setCsHeld_mem (b : Bool) : (setCsHeld b s).mem = s.mem := rfl
@[simp] theorem setCsHeld_diag (b : Bool) : (setCsHeld b s).diag = s.diag := rfl
@[simp] theorem setCsHeld_draws (b : Bool) : (setCsHeld b s).draws = s.draws := rfl
@[simp] theorem setCsHeld_script (b : Bool) : (setCsHeld b s).script = s.script := rfl

/-! ### setTi -/

@[simp] theorem setTi_cfg (k : Nat) : (setTi k s).cfg = s.cfg := rfl
@[simp] theorem setTi_desc (k : Nat) : (setTi k s).desc = s.desc := rfl
@[simp] theorem setTi_pc (k : Nat) : (setTi k s).pc = s.pc := rfl
@[simp] theorem setTi_res (k : Nat) : (setTi k s).res = s.res := rfl
@[simp] theorem setTi_rval (k : Nat) : (setTi k s).rval = s.rval := rfl
@[simp] theorem setTi_rframe (k : Nat) : (setTi k s).rframe = s.rframe := rfl
@[simp] theorem setTi_fault (k : Nat) : (setTi k s).fault = s.fault := rfl
@[simp] theorem setTi_qmark (k : Nat) : (setTi k s).qmark = s.qmark := rfl
@[simp] theorem setTi_now (k : Nat) : (setTi k s).now = s.now := rfl
@[simp] theorem setTi_seq (k : Nat) : (setTi k s).seq = { s.seq with ti := k } := rfl
@[simp] theorem setTi_can (k : Nat) : (setTi k s).can = s.can := rfl
@[simp] theorem setTi_rgb (k : Nat) : (setTi k s).rgb = s.rgb := rfl
@[simp] theorem setTi_blit (k : Nat) : (setTi k s).blit = s.blit := rfl
@[simp] theorem setTi_mem (k : Nat) : (setTi k s).mem = s.mem := rfl
@[simp] theorem setTi_diag (k : Nat) : (setTi k s).diag = s.diag := rfl
@[simp] theorem setTi_draws (k : Nat) : (setTi k s).draws = s.draws := rfl
@[simp] theorem setTi_script (k : Nat) : (setTi k s).script = s.script := rfl

/-! ### beginInitseq -/

@[simp] theorem beginInitseq_cfg : (beginInitseq s).cfg = s.cfg := rfl
@[simp] theorem beginInitseq_desc : (beginInitseq s).desc = s.desc := rfl
@[simp] theorem beginInitseq_pc : (beginInitseq s).pc = s.pc := rfl
@[simp] theorem beginInitseq_res : (beginInitseq s).res = s.res := rfl
@[simp] theorem beginInitseq_rval : (beginInitseq s).rval = s.rval := rfl
@[simp] theorem beginInitseq_rframe : (beginInitseq s).rframe = s.rframe := rfl
@[simp] theorem beginInitseq_fault : (beginInitseq s).fault = s.fault := rfl
@[simp] theorem beginInitseq_qmark : (beginInitseq s).qmark = s.qmark := rfl
@[simp] theorem beginInitseq_now : (beginInitseq s).now = s.now := rfl
@[simp] theorem beginInitseq_seq : (beginInitseq s).seq = { s.seq with inInitseq := true } := rfl
@[simp] theorem beginInitseq_can : (beginInitseq s).can = s.can := rfl
@[simp] theorem beginInitseq_rgb : (beginInitseq s).rgb = s.rgb := rfl
@[simp] theorem beginInitseq_blit : (beginInitseq s).blit = s.blit := rfl
@[simp] theorem beginInitseq_mem : (beginInitseq s).mem = s.mem := rfl
@[simp] theorem beginInitseq_diag : (beginInitseq s).diag = s.diag := rfl
@[simp] theorem beginInitseq_draws : (beginInitseq s).draws = s.draws := rfl
@[simp] theorem beginInitseq_script : (beginInitseq s).script = s.script := rfl

/-! ### endInitseq -/

@[simp] theorem endInitseq_cfg : (endInitseq s).cfg = s.cfg := rfl
@[simp] theorem endInitseq_desc : (endInitseq s).desc = s.desc := rfl
@[simp] theorem endInitseq_pc : (endInitseq s).pc = s.pc := rfl
@[simp] theorem endInitseq_res : (endInitseq s).res = s.res := rfl
@[simp] theorem endInitseq_rval : (endInitseq s).rval = s.rval := rfl
@[simp] theorem endInitseq_rframe : (endInitseq s).rframe = s.rframe := rfl
@[simp] theorem endInitseq_fault : (endInitseq s).fault = s.fault := rfl
@[simp] theorem endInitseq_qmark : (endInitseq s).qmark = s.qmark := rfl
@[simp] theorem endInitseq_now : (endInitseq s).now = s.now := rfl
@[simp] theorem endInitseq_seq : (endInitseq s).seq = { s.seq with ti := 0, inInitseq := false, seqDone := true } := rfl
@[simp] theorem endInitseq_can : (endInitseq s).can = s.can := rfl
@[simp] theorem endInitseq_rgb : (endInitseq s).rgb = s.rgb := rfl
@[simp] theorem endInitseq_blit : (endInitseq s).blit = s.blit := rfl
@[simp] theorem endInitseq_mem : (endInitseq s).mem = s.mem := rfl
@[simp] theorem endInitseq_diag : (endInitseq s).diag = s.diag := rfl
@[simp] theorem endInitseq_draws : (endInitseq s).draws = s.draws := rfl
@[simp] theorem endInitseq_script : (endInitseq s).script = s.script := rfl

/-! ### markTried -/

@[simp] theorem markTried_cfg : (markTried s).cfg = s.cfg := rfl
@[simp] theorem markTried_desc : (markTried s).desc = s.desc := rfl
@[simp] theorem markTried_pc : (markTried s).pc = s.pc := rfl
@[simp] theorem markTried_res : (markTried s).res = s.res := rfl
@[simp] theorem markTried_rval : (markTried s).rval = s.rval := rfl
@[simp] theorem markTried_rframe : (markTried s).rframe = s.rframe := rfl
@[simp] theorem markTried_fault : (markTried s).fault = s.fault := rfl
@[simp] theorem markTried_qmark : (markTried s).qmark = s.qmark := rfl
@[simp] theorem markTried_now : (markTried s).now = s.now := rfl
@[simp] theorem markTried_seq : (markTried s).seq = s.seq := rfl
@[simp] theorem markTried_can : (markTried s).can = { s.can with tried := true } := rfl
@[simp] theorem markTried_rgb : (markTried s).rgb = s.rgb := rfl
@[simp] theorem markTried_blit : (markTried s).blit = s.blit := rfl
@[simp] theorem markTried_mem : (markTried s).mem = s.mem := rfl
@[simp] theorem markTried_diag : (markTried s).diag = s.diag := rfl
@[simp] theorem markTried_draws : (markTried s).draws = s.draws := rfl
@[simp] theorem markTried_script : (markTried s).script = s.script := rfl

/-! ### installCan -/

@[simp] theorem installCan_cfg (c : BusConfig) : (installCan c s).cfg = s.cfg := rfl
@[simp] theorem installCan_desc (c : BusConfig) : (installCan c s).desc = s.desc := rfl
@[simp] theorem installCan_pc (c : BusConfig) : (installCan c s).pc = s.pc := rfl
@[simp] theorem installCan_res (c : BusConfig) : (installCan c s).res = s.res := rfl
@[simp] theorem installCan_rval (c : BusConfig) : (installCan c s).rval = s.rval := rfl
@[simp] theorem installCan_rframe (c : BusConfig) : (installCan c s).rframe = s.rframe := rfl
@[simp] theorem installCan_fault (c : BusConfig) : (installCan c s).fault = s.fault := rfl
@[simp] theorem installCan_qmark (c : BusConfig) : (installCan c s).qmark = s.qmark := rfl
@[simp] theorem installCan_now (c : BusConfig) : (installCan c s).now = s.now := rfl
@[simp] theorem installCan_seq (c : BusConfig) : (installCan c s).seq = s.seq := rfl
@[simp] theorem installCan_rgb (c : BusConfig) : (installCan c s).rgb = s.rgb := rfl
@[simp] theorem installCan_blit (c : BusConfig) : (installCan c s).blit = s.blit := rfl
@[simp] theorem installCan_mem (c : BusConfig) : (installCan c s).mem = s.mem := rfl
@[simp] theorem installCan_diag (c : BusConfig) : (installCan c s).diag = s.diag := rfl
@[simp] theorem installCan_draws (c : BusConfig) : (installCan c s).draws = s.draws := rfl
@[simp] theorem installCan_script (c : BusConfig) : (installCan c s).script = s.script := rfl

/-! ### startCan -/

@[simp] theorem startCan_cfg : (startCan s).cfg = s.cfg := rfl
@[simp] theorem startCan_desc : (startCan s).desc = s.desc := rfl
@[simp] theorem startCan_pc : (startCan s).pc = s.pc := rfl
@[simp] theorem startCan_res : (startCan s).res = s.res := rfl
@[simp] theorem startCan_rval : (startCan s).rval = s.rval := rfl
@[simp] theorem startCan_rframe : (startCan s).rframe = s.rframe := rfl
@[simp] theorem startCan_fault : (startCan s).fault = s.fault := rfl
@[simp] theorem startCan_qmark : (startCan s).qmark = s.qmark := rfl
@[simp] theorem startCan_now : (startCan s).now = s.now := rfl
@[simp] theorem startCan_seq : (startCan s).seq = s.seq := rfl
@[simp] theorem startCan_can : (startCan s).can = { s.can with phase := .running } := rfl
@[simp] theorem startCan_rgb : (startCan s).rgb = s.rgb := rfl
@[simp] theorem startCan_blit : (startCan s).blit = s.blit := rfl
@[simp] theorem startCan_mem : (startCan s).mem = s.mem := rfl
@[simp] theorem startCan_diag : (startCan s).diag = s.diag := rfl
@[simp] theorem startCan_draws : (startCan s).draws = s.draws := rfl
@[simp] theorem startCan_script : (startCan s).script = s.script := rfl

/-! ### recvEmpty -/

@[simp] theorem recvEmpty_cfg : (recvEmpty s).cfg = s.cfg := rfl
@[simp] theorem recvEmpty_desc : (recvEmpty s).desc = s.desc := rfl
@[simp] theorem recvEmpty_pc : (recvEmpty s).pc = s.pc := rfl
@[simp] theorem recvEmpty_res : (recvEmpty s).res = Status.empty.code := rfl
@[simp] theorem recvEmpty_rval : (recvEmpty s).rval = s.rval := rfl
@[simp] theorem recvEmpty_rframe : (recvEmpty s).rframe = none := rfl
@[simp] theorem recvEmpty_fault : (recvEmpty s).fault = s.fault := rfl
@[simp] theorem recvEmpty_qmark : (recvEmpty s).qmark = s.qmark := rfl
@[simp] theorem recvEmpty_now : (recvEmpty s).now = s.now := rfl
@[simp] theorem recvEmpty_seq : (recvEmpty s).seq = s.seq := rfl
@[simp] theorem recvEmpty_can : (recvEmpty s).can = s.can := rfl
@[simp] theorem recvEmpty_rgb : (recvEmpty s).rgb = s.rgb := rfl
@[simp] theorem recvEmpty_blit : (recvEmpty s).blit = s.blit := rfl
@[simp] theorem recvEmpty_mem : (recvEmpty s).mem = s.mem := rfl
@[simp] theorem recvEmpty_diag : (recvEmpty s).diag = s.diag := rfl
@[simp] theorem recvEmpty_draws : (recvEmpty s).draws = s.draws := rfl
@[simp] theorem recvEmpty_script : (recvEmpty s).script = s.script := rfl

/-! ### recvFrame -/

@[simp] theorem recvFrame_cfg (f : Frame) (fs : List Frame) : (recvFrame f fs s).cfg = s.cfg := rfl
@[simp] theorem recvFrame_desc (f : Frame) (fs : List Frame) : (recvFrame f fs s).desc = s.desc := rfl
@[simp] theorem recvFrame_pc (f : Frame) (fs : List Frame) : (recvFrame f fs s).pc = s.pc := rfl
@[simp] theorem recvFrame_res (f : Frame) (fs : List Frame) : (recvFrame f fs s).res = Status.ok.code := rfl
@[simp] theorem recvFrame_rval (f : Frame) (fs : List Frame) : (recvFrame f fs s).rval = s.rval := rfl
@[simp] theorem recvFrame_rframe (f : Frame) (fs : List Frame) : (recvFrame f fs s).rframe = some f := rfl
@[simp] theorem recvFrame_fault (f : Frame) (fs : List Frame) : (recvFrame f fs s).fault = s.fault := rfl
@[simp] theorem recvFrame_qmark (f : Frame) (fs : List Frame) : (recvFrame f fs s).qmark = s.qmark := rfl
@[simp] theorem recvFrame_now (f : Frame) (fs : List Frame) : (recvFrame f fs s).now = s.now := rfl
@[simp] theorem recvFrame_seq (f : Frame) (fs : List Frame) : (recvFrame f fs s).seq = s.seq := rfl
@[simp] theorem recvFrame_can (f : Frame) (fs : List Frame) : (recvFrame f fs s).can = { s.can with rxq := fs } := rfl
@[simp] theorem recvFrame_rgb (f : Frame) (fs : List Frame) : (recvFrame f fs s).rgb = s.rgb := rfl
@[simp] theorem recvFrame_blit (f : Frame) (fs : List Frame) : (recvFrame f fs s).blit = s.blit := rfl
@[simp] theorem recvFrame_mem (f : Frame) (fs : List Frame) : (recvFrame f fs s).mem = s.mem := rfl
@[simp] theorem recvFrame_diag (f : Frame) (fs : List Frame) : (recvFrame f fs s).diag = s.diag := rfl
@[simp] theorem recvFrame_draws (f : Frame) (fs : List Frame) : (recvFrame f fs s).draws = s.draws := rfl
@[simp] theorem recvFrame_script (f : Frame) (fs : List Frame) : (recvFrame f fs s).script = s.script := rfl

/-! ### takeAlerts -/

@[simp] theorem takeAlerts_cfg : (takeAlerts s).cfg = s.cfg := rfl
@[simp] theorem takeAlerts_desc : (takeAlerts s).desc = s.desc := rfl
@[simp] theorem takeAlerts_pc : (takeAlerts s).pc = s.pc := rfl
@[simp] theorem takeAlerts_res : (takeAlerts s).res = Status.ok.code := rfl
@[simp] theorem takeAlerts_rval : (takeAlerts s).rval = s.can.alertStatus.setWidth 32 := rfl
@[simp] theorem takeAlerts_rframe : (takeAlerts s).rframe = s.rframe := rfl
@[simp] theorem takeAlerts_fault : (takeAlerts s).fault = s.fault := rfl
@[simp] theorem takeAlerts_qmark : (takeAlerts s).qmark = s.qmark := rfl
@[simp] theorem takeAlerts_now : (takeAlerts s).now = s.now := rfl
@[simp] theorem takeAlerts_seq : (takeAlerts s).seq = s.seq := rfl
@[simp] theorem takeAlerts_can : (takeAlerts s).can = { s.can with alertStatus := 0#3 } := rfl
@[simp] theorem takeAlerts_rgb : (takeAlerts s).rgb = s.rgb := rfl
@[simp] theorem takeAlerts_blit : (takeAlerts s).blit = s.blit := rfl
@[simp] theorem takeAlerts_mem : (takeAlerts s).mem = s.mem := rfl
@[simp] theorem takeAlerts_diag : (takeAlerts s).diag = s.diag := rfl
@[simp] theorem takeAlerts_draws : (takeAlerts s).draws = s.draws := rfl
@[simp] theorem takeAlerts_script : (takeAlerts s).script = s.script := rfl

/-! ### startPlane -/

@[simp] theorem startPlane_cfg (c : PlaneConfig) : (startPlane c s).cfg = s.cfg := rfl
@[simp] theorem startPlane_desc (c : PlaneConfig) : (startPlane c s).desc = s.desc := rfl
@[simp] theorem startPlane_pc (c : PlaneConfig) : (startPlane c s).pc = s.pc := rfl
@[simp] theorem startPlane_res (c : PlaneConfig) : (startPlane c s).res = s.res := rfl
@[simp] theorem startPlane_rval (c : PlaneConfig) : (startPlane c s).rval = s.rval := rfl
@[simp] theorem startPlane_rframe (c : PlaneConfig) : (startPlane c s).rframe = s.rframe := rfl
@[simp] theorem startPlane_fault (c : PlaneConfig) : (startPlane c s).fault = s.fault := rfl
@[simp] theorem startPlane_qmark (c : PlaneConfig) : (startPlane c s).qmark = s.qmark := rfl
@[simp] theorem startPlane_now (c : PlaneConfig) : (startPlane c s).now = s.now := rfl
@[simp] theorem startPlane_seq (c : PlaneConfig) : (startPlane c s).seq = s.seq := rfl
@[simp] theorem startPlane_can (c : PlaneConfig) : (startPlane c s).can = s.can := rfl
@[simp] theorem startPlane_blit (c : PlaneConfig) : (startPlane c s).blit = s.blit := rfl
@[simp] theorem startPlane_mem (c : PlaneConfig) : (startPlane c s).mem = s.mem := rfl
@[simp] theorem startPlane_diag (c : PlaneConfig) : (startPlane c s).diag = s.diag := rfl
@[simp] theorem startPlane_draws (c : PlaneConfig) : (startPlane c s).draws = s.draws := rfl
@[simp] theorem startPlane_script (c : PlaneConfig) : (startPlane c s).script = s.script := rfl

/-! ### failPlane -/

@[simp] theorem failPlane_cfg : (failPlane s).cfg = s.cfg := rfl
@[simp] theorem failPlane_desc : (failPlane s).desc = s.desc := rfl
@[simp] theorem failPlane_pc : (failPlane s).pc = s.pc := rfl
@[simp] theorem failPlane_res : (failPlane s).res = s.res := rfl
@[simp] theorem failPlane_rval : (failPlane s).rval = s.rval := rfl
@[simp] theorem failPlane_rframe : (failPlane s).rframe = s.rframe := rfl
@[simp] theorem failPlane_fault : (failPlane s).fault = s.fault := rfl
@[simp] theorem failPlane_qmark : (failPlane s).qmark = s.qmark := rfl
@[simp] theorem failPlane_now : (failPlane s).now = s.now := rfl
@[simp] theorem failPlane_seq : (failPlane s).seq = s.seq := rfl
@[simp] theorem failPlane_can : (failPlane s).can = s.can := rfl
@[simp] theorem failPlane_rgb : (failPlane s).rgb = { s.rgb with phase := .failed } := rfl
@[simp] theorem failPlane_blit : (failPlane s).blit = s.blit := rfl
@[simp] theorem failPlane_mem : (failPlane s).mem = s.mem := rfl
@[simp] theorem failPlane_diag : (failPlane s).diag = s.diag := rfl
@[simp] theorem failPlane_draws : (failPlane s).draws = s.draws := rfl
@[simp] theorem failPlane_script : (failPlane s).script = s.script := rfl

/-! ### setBacklight -/

@[simp] theorem setBacklight_cfg (d : Nat) : (setBacklight d s).cfg = s.cfg := rfl
@[simp] theorem setBacklight_desc (d : Nat) : (setBacklight d s).desc = s.desc := rfl
@[simp] theorem setBacklight_pc (d : Nat) : (setBacklight d s).pc = s.pc := rfl
@[simp] theorem setBacklight_res (d : Nat) : (setBacklight d s).res = s.res := rfl
@[simp] theorem setBacklight_rval (d : Nat) : (setBacklight d s).rval = s.rval := rfl
@[simp] theorem setBacklight_rframe (d : Nat) : (setBacklight d s).rframe = s.rframe := rfl
@[simp] theorem setBacklight_fault (d : Nat) : (setBacklight d s).fault = s.fault := rfl
@[simp] theorem setBacklight_qmark (d : Nat) : (setBacklight d s).qmark = s.qmark := rfl
@[simp] theorem setBacklight_now (d : Nat) : (setBacklight d s).now = s.now := rfl
@[simp] theorem setBacklight_seq (d : Nat) : (setBacklight d s).seq = s.seq := rfl
@[simp] theorem setBacklight_can (d : Nat) : (setBacklight d s).can = s.can := rfl
@[simp] theorem setBacklight_rgb (d : Nat) : (setBacklight d s).rgb = { s.rgb with blDuty := d, blSet := true } := rfl
@[simp] theorem setBacklight_blit (d : Nat) : (setBacklight d s).blit = s.blit := rfl
@[simp] theorem setBacklight_mem (d : Nat) : (setBacklight d s).mem = s.mem := rfl
@[simp] theorem setBacklight_diag (d : Nat) : (setBacklight d s).diag = s.diag := rfl
@[simp] theorem setBacklight_draws (d : Nat) : (setBacklight d s).draws = s.draws := rfl
@[simp] theorem setBacklight_script (d : Nat) : (setBacklight d s).script = s.script := rfl

/-! ### allocOk -/

@[simp] theorem allocOk_cfg (a1 a2 size vw vh : Nat) : (allocOk a1 a2 size vw vh s).cfg = s.cfg := rfl
@[simp] theorem allocOk_desc (a1 a2 size vw vh : Nat) : (allocOk a1 a2 size vw vh s).desc = s.desc := rfl
@[simp] theorem allocOk_pc (a1 a2 size vw vh : Nat) : (allocOk a1 a2 size vw vh s).pc = s.pc := rfl
@[simp] theorem allocOk_res (a1 a2 size vw vh : Nat) : (allocOk a1 a2 size vw vh s).res = Status.ok.code := rfl
@[simp] theorem allocOk_rval (a1 a2 size vw vh : Nat) : (allocOk a1 a2 size vw vh s).rval = s.rval := rfl
@[simp] theorem allocOk_rframe (a1 a2 size vw vh : Nat) : (allocOk a1 a2 size vw vh s).rframe = s.rframe := rfl
@[simp] theorem allocOk_fault (a1 a2 size vw vh : Nat) : (allocOk a1 a2 size vw vh s).fault = s.fault := rfl
@[simp] theorem allocOk_qmark (a1 a2 size vw vh : Nat) : (allocOk a1 a2 size vw vh s).qmark = s.qmark := rfl
@[simp] theorem allocOk_now (a1 a2 size vw vh : Nat) : (allocOk a1 a2 size vw vh s).now = s.now := rfl
@[simp] theorem allocOk_seq (a1 a2 size vw vh : Nat) : (allocOk a1 a2 size vw vh s).seq = s.seq := rfl
@[simp] theorem allocOk_can (a1 a2 size vw vh : Nat) : (allocOk a1 a2 size vw vh s).can = s.can := rfl
@[simp] theorem allocOk_rgb (a1 a2 size vw vh : Nat) : (allocOk a1 a2 size vw vh s).rgb = s.rgb := rfl
@[simp] theorem allocOk_mem (a1 a2 size vw vh : Nat) : (allocOk a1 a2 size vw vh s).mem = s.mem := rfl
@[simp] theorem allocOk_diag (a1 a2 size vw vh : Nat) : (allocOk a1 a2 size vw vh s).diag = s.diag := rfl
@[simp] theorem allocOk_draws (a1 a2 size vw vh : Nat) : (allocOk a1 a2 size vw vh s).draws = s.draws := rfl
@[simp] theorem allocOk_script (a1 a2 size vw vh : Nat) : (allocOk a1 a2 size vw vh s).script = s.script := rfl

/-! ### allocFailed -/

@[simp] theorem allocFailed_cfg : (allocFailed s).cfg = s.cfg := rfl
@[simp] theorem allocFailed_desc : (allocFailed s).desc = s.desc := rfl
@[simp] theorem allocFailed_pc : (allocFailed s).pc = s.pc := rfl
@[simp] theorem allocFailed_res : (allocFailed s).res = Status.allocationFailed.code := rfl
@[simp] theorem allocFailed_rval : (allocFailed s).rval = s.rval := rfl
@[simp] theorem allocFailed_rframe : (allocFailed s).rframe = s.rframe := rfl
@[simp] theorem allocFailed_fault : (allocFailed s).fault = s.fault := rfl
@[simp] theorem allocFailed_qmark : (allocFailed s).qmark = s.qmark := rfl
@[simp] theorem allocFailed_now : (allocFailed s).now = s.now := rfl
@[simp] theorem allocFailed_seq : (allocFailed s).seq = s.seq := rfl
@[simp] theorem allocFailed_can : (allocFailed s).can = s.can := rfl
@[simp] theorem allocFailed_rgb : (allocFailed s).rgb = s.rgb := rfl
@[simp] theorem allocFailed_blit : (allocFailed s).blit = { s.blit with allocState := .failed, gfxAborted := true } := rfl
@[simp] theorem allocFailed_mem : (allocFailed s).mem = s.mem := rfl
@[simp] theorem allocFailed_diag : (allocFailed s).diag = s.diag ++ [.allocationFailed] := rfl
@[simp] theorem allocFailed_draws : (allocFailed s).draws = s.draws := rfl
@[simp] theorem allocFailed_script : (allocFailed s).script = s.script := rfl

/-! ### registerFlush -/

@[simp] theorem registerFlush_cfg (vw vh ox oy : Nat) : (registerFlush vw vh ox oy s).cfg = s.cfg := rfl
@[simp] theorem registerFlush_desc (vw vh ox oy : Nat) : (registerFlush vw vh ox oy s).desc = s.desc := rfl
@[simp] theorem registerFlush_pc (vw vh ox oy : Nat) : (registerFlush vw vh ox oy s).pc = s.pc := rfl
@[simp] theorem registerFlush_res (vw vh ox oy : Nat) : (registerFlush vw vh ox oy s).res = s.res := rfl
@[simp] theorem registerFlush_rval (vw vh ox oy : Nat) : (registerFlush vw vh ox oy s).rval = s.rval := rfl
@[simp] theorem registerFlush_rframe (vw vh ox oy : Nat) : (registerFlush vw vh ox oy s).rframe = s.rframe := rfl
@[simp] theorem registerFlush_fault (vw vh ox oy : Nat) : (registerFlush vw vh ox oy s).fault = s.fault := rfl
@[simp] theorem registerFlush_qmark (vw vh ox oy : Nat) : (registerFlush vw vh ox oy s).qmark = s.qmark := rfl
@[simp] theorem registerFlush_now (vw vh ox oy : Nat) : (registerFlush vw vh ox oy s).now = s.now := rfl
@[simp] theorem registerFlush_seq (vw vh ox oy : Nat) : (registerFlush vw vh ox oy s).seq = s.seq := rfl
@[simp] theorem registerFlush_can (vw vh ox oy : Nat) : (registerFlush vw vh ox oy s).can = s.can := rfl
@[simp] theorem registerFlush_rgb (vw vh ox oy : Nat) : (registerFlush vw vh ox oy s).rgb = s.rgb := rfl
@[simp] theorem registerFlush_mem (vw vh ox oy : Nat) : (registerFlush vw vh ox oy s).mem = s.mem := rfl
@[simp] theorem registerFlush_diag (vw vh ox oy : Nat) : (registerFlush vw vh ox oy s).diag = s.diag := rfl
@[simp] theorem registerFlush_draws (vw vh ox oy : Nat) : (registerFlush vw vh ox oy s).draws = s.draws := rfl
@[simp] theorem registerFlush_script (vw vh ox oy : Nat) : (registerFlush vw vh ox oy s).script = s.script := rfl

/-! ### countBlit -/

@[simp] theorem countBlit_cfg : (countBlit s).cfg = s.cfg := rfl
@[simp] theorem countBlit_desc : (countBlit s).desc = s.desc := rfl
@[simp] theorem countBlit_pc : (countBlit s).pc = s.pc := rfl
@[simp] theorem countBlit_res : (countBlit s).res = s.res := rfl
@[simp] theorem countBlit_rval : (countBlit s).rval = s.rval := rfl
@[simp] theorem countBlit_rframe : (countBlit s).rframe = s.rframe := rfl
@[simp] theorem countBlit_fault : (countBlit s).fault = s.fault := rfl
@[simp] theorem countBlit_qmark : (countBlit s).qmark = s.qmark := rfl
@[simp] theorem countBlit_now : (countBlit s).now = s.now := rfl
@[simp] theorem countBlit_seq : (countBlit s).seq = s.seq := rfl
@[simp] theorem countBlit_can : (countBlit s).can = s.can := rfl
@[simp] theorem countBlit_rgb : (countBlit s).rgb = s.rgb := rfl
@[simp] theorem countBlit_blit : (countBlit s).blit = { s.blit with blitCalls := s.blit.blitCalls + 1 } := rfl
@[simp] theorem countBlit_mem : (countBlit s).mem = s.mem := rfl
@[simp] theorem countBlit_diag : (countBlit s).diag = s.diag := rfl
@[simp] theorem countBlit_draws : (countBlit s).draws = s.draws := rfl
@[simp] theorem countBlit_script : (countBlit s).script = s.script := rfl

/-! ### signalCompletion -/

@[simp] theorem signalCompletion_cfg (w : Window) : (signalCompletion w s).cfg = s.cfg := rfl
@[simp] theorem signalCompletion_desc (w : Window) : (signalCompletion w s).desc = s.desc := rfl
@[simp] theorem signalCompletion_pc (w : Window) : (signalCompletion w s).pc = s.pc := rfl
@[simp] theorem signalCompletion_res (w : Window) : (signalCompletion w s).res = s.res := rfl
@[simp] theorem signalCompletion_rval (w : Window) : (signalCompletion w s).rval = s.rval := rfl
@[simp] theorem signalCompletion_rframe (w : Window) : (signalCompletion w s).rframe = s.rframe := rfl
@[simp] theorem signalCompletion_fault (w : Window) : (signalCompletion w s).fault = s.fault := rfl
@[simp] theorem signalCompletion_qmark (w : Window) : (signalCompletion w s).qmark = s.qmark := rfl
@[simp] theorem signalCompletion_now (w : Window) : (signalCompletion w s).now = s.now := rfl
@[simp] theorem signalCompletion_seq (w : Window) : (signalCompletion w s).seq = s.seq := rfl
@[simp] theorem signalCompletion_can (w : Window) : (signalCompletion w s).can = s.can := rfl
@[simp] theorem signalCompletion_rgb (w : Window) : (signalCompletion w s).rgb = s.rgb := rfl
@[simp] theorem signalCompletion_blit (w : Window) : (signalCompletion w s).blit = { s.blit with completions := s.blit.completions + 1, flushLog := s.blit.flushLog ++ [(w, s.blit.completions + 1)] } := rfl
@[simp] theorem signalCompletion_mem (w : Window) : (signalCompletion w s).mem = s.mem := rfl
@[simp] theorem signalCompletion_diag (w : Window) : (signalCompletion w s).diag = s.diag := rfl
@[simp] theorem signalCompletion_draws (w : Window) : (signalCompletion w s).draws = s.draws := rfl
@[simp] theorem signalCompletion_script (w : Window) : (signalCompletion w s).script = s.script := rfl

/-! ### loadPixels -/

@[simp] theorem loadPixels_cfg (a : Nat) (bs : List Byte) : (loadPixels a bs s).cfg = s.cfg := rfl
@[simp] theorem loadPixels_desc (a : Nat) (bs : List Byte) : (loadPixels a bs s).desc = s.desc := rfl
@[simp] theorem loadPixels_pc (a : Nat) (bs : List Byte) : (loadPixels a bs s).pc = s.pc := rfl
@[simp] theorem loadPixels_res (a : Nat) (bs : List Byte) : (loadPixels a bs s).res = s.res := rfl
@[simp] theorem loadPixels_rval (a : Nat) (bs : List Byte) : (loadPixels a bs s).rval = s.rval := rfl
@[simp] theorem loadPixels_rframe (a : Nat) (bs : List Byte) : (loadPixels a bs s).rframe = s.rframe := rfl
@[simp] theorem loadPixels_fault (a : Nat) (bs : List Byte) : (loadPixels a bs s).fault = s.fault := rfl
@[simp] theorem loadPixels_qmark (a : Nat) (bs : List Byte) : (loadPixels a bs s).qmark = s.qmark := rfl
@[simp] theorem loadPixels_now (a : Nat) (bs : List Byte) : (loadPixels a bs s).now = s.now := rfl
@[simp] theorem loadPixels_seq (a : Nat) (bs : List Byte) : (loadPixels a bs s).seq = s.seq := rfl
@[simp] theorem loadPixels_can (a : Nat) (bs : List Byte) : (loadPixels a bs s).can = s.can := rfl
@[simp] theorem loadPixels_rgb (a : Nat) (bs : List Byte) : (loadPixels a bs s).rgb = s.rgb := rfl
@[simp] theorem loadPixels_blit (a : Nat) (bs : List Byte) : (loadPixels a bs s).blit = s.blit := rfl
@[simp] theorem loadPixels_mem (a : Nat) (bs : List Byte) : (loadPixels a bs s).mem = memWrite a bs s.mem := rfl
@[simp] theorem loadPixels_diag (a : Nat) (bs : List Byte) : (loadPixels a bs s).diag = s.diag := rfl
@[simp] theorem loadPixels_draws (a : Nat) (bs : List Byte) : (loadPixels a bs s).draws = s.draws := rfl
@[simp] theorem loadPixels_script (a : Nat) (bs : List Byte) : (loadPixels a bs s).script = s.script := rfl

/-! ### The fields of SEQ under a control-bus word -/

@[simp] theorem endWord_seq_rstLevel (tag : Tag) (b : Byte) (req : Nat) (seen : Bool) (d : Nat) : (endWord tag b req seen d s).seq.rstLevel = s.seq.rstLevel := rfl
@[simp] theorem endWord_seq_csLevel (tag : Tag) (b : Byte) (req : Nat) (seen : Bool) (d : Nat) : (endWord tag b req seen d s).seq.csLevel = s.seq.csLevel := rfl
@[simp] theorem endWord_seq_log (tag : Tag) (b : Byte) (req : Nat) (seen : Bool) (d : Nat) : (endWord tag b req seen d s).seq.log = s.seq.log ++ [.word s.now tag b seen] := rfl
@[simp] theorem endWord_seq_csHeld (tag : Tag) (b : Byte) (req : Nat) (seen : Bool) (d : Nat) : (endWord tag b req seen d s).seq.csHeld = s.seq.csHeld := rfl
@[simp] theorem endWord_seq_busy (tag : Tag) (b : Byte) (req : Nat) (seen : Bool) (d : Nat) : (endWord tag b req seen d s).seq.busy = false := rfl
@[simp] theorem endWord_seq_seqDone (tag : Tag) (b : Byte) (req : Nat) (seen : Bool) (d : Nat) : (endWord tag b req seen d s).seq.seqDone = s.seq.seqDone := rfl
@[simp] theorem endWord_seq_inInitseq (tag : Tag) (b : Byte) (req : Nat) (seen : Bool) (d : Nat) : (endWord tag b req seen d s).seq.inInitseq = s.seq.inInitseq := rfl
@[simp] theorem endWord_seq_rstLowAt (tag : Tag) (b : Byte) (req : Nat) (seen : Bool) (d : Nat) : (endWord tag b req seen d s).seq.rstLowAt = s.seq.rstLowAt := rfl
@[simp] theorem endWord_seq_panelReadyAt (tag : Tag) (b : Byte) (req : Nat) (seen : Bool) (d : Nat) : (endWord tag b req seen d s).seq.panelReadyAt = s.seq.panelReadyAt := rfl
@[simp] theorem endWord_seq_settleUntil (tag : Tag) (b : Byte) (req : Nat) (seen : Bool) (d : Nat) : (endWord tag b req seen d s).seq.settleUntil = s.seq.settleUntil := rfl
@[simp] theorem endWord_seq_ti (tag : Tag) (b : Byte) (req : Nat) (seen : Bool) (d : Nat) : (endWord tag b req seen d s).seq.ti = s.seq.ti := rfl

theorem endWord_seq_curReq (tag : Tag) (b : Byte) (req : Nat) (seen : Bool) (d : Nat) :
    (endWord tag b req seen d s).seq.curReq
      = if seen then (if tag = .command then req else s.seq.curReq) else s.seq.curReq := rfl

theorem endWord_seq_quietUntil (tag : Tag) (b : Byte) (req : Nat) (seen : Bool) (d : Nat) :
    (endWord tag b req seen d s).seq.quietUntil
      = if seen then
          max s.seq.quietUntil (s.now + d + (if tag = .command then req else s.seq.curReq))
        else s.seq.quietUntil := rfl

/-! ### The fields installing, starting the data plane, allocating and registering write -/

@[simp] theorem installCan_can_phase (c : BusConfig) : (installCan c s).can.phase = .installed := rfl
@[simp] theorem installCan_can_tried (c : BusConfig) : (installCan c s).can.tried = s.can.tried := rfl
@[simp] theorem installCan_can_rxqDepth (c : BusConfig) : (installCan c s).can.rxqDepth = BitVec.ofNat 16 c.rxqDepth := rfl
@[simp] theorem installCan_can_txqDepth (c : BusConfig) : (installCan c s).can.txqDepth = BitVec.ofNat 16 c.txqDepth := rfl
@[simp] theorem installCan_can_alertEn (c : BusConfig) : (installCan c s).can.alertEn = c.alerts := rfl
@[simp] theorem installCan_can_alertStatus (c : BusConfig) : (installCan c s).can.alertStatus = 0#3 := rfl
@[simp] theorem installCan_can_rxq (c : BusConfig) : (installCan c s).can.rxq = [] := rfl
@[simp] theorem installCan_can_txq (c : BusConfig) : (installCan c s).can.txq = [] := rfl
@[simp] theorem installCan_can_dropped (c : BusConfig) : (installCan c s).can.dropped = s.can.dropped := rfl
@[simp] theorem startPlane_rgb_phase (c : PlaneConfig) :
    (startPlane c s).rgb.phase = .running := rfl
@[simp] theorem startPlane_rgb_hRes (c : PlaneConfig) :
    (startPlane c s).rgb.hRes = BitVec.ofNat 16 c.hRes := rfl
@[simp] theorem startPlane_rgb_vRes (c : PlaneConfig) :
    (startPlane c s).rgb.vRes = BitVec.ofNat 16 c.vRes := rfl
@[simp] theorem startPlane_rgb_fbCount (c : PlaneConfig) :
    (startPlane c s).rgb.fbCount = BitVec.ofNat 8 c.fbCount := rfl
@[simp] theorem startPlane_rgb_fb (c : PlaneConfig) :
    (startPlane c s).rgb.fb = List.replicate c.fbCount ⟨frameBytes c.hRes c.vRes s.cfg.bytesPP, []⟩ := rfl
@[simp] theorem startPlane_rgb_scanOpen (c : PlaneConfig) :
    (startPlane c s).rgb.scanOpen = s.rgb.scanOpen := rfl
@[simp] theorem startPlane_rgb_scanSel (c : PlaneConfig) :
    (startPlane c s).rgb.scanSel = s.rgb.scanSel := rfl
@[simp] theorem startPlane_rgb_frames (c : PlaneConfig) :
    (startPlane c s).rgb.frames = s.rgb.frames := rfl
@[simp] theorem startPlane_rgb_blDuty (c : PlaneConfig) :
    (startPlane c s).rgb.blDuty = s.rgb.blDuty := rfl
@[simp] theorem startPlane_rgb_blSet (c : PlaneConfig) :
    (startPlane c s).rgb.blSet = s.rgb.blSet := rfl
@[simp] theorem allocOk_blit_allocState (a1 a2 size vw vh : Nat) :
    (allocOk a1 a2 size vw vh s).blit.allocState = .ok := rfl
@[simp] theorem allocOk_blit_buf1 (a1 a2 size vw vh : Nat) :
    (allocOk a1 a2 size vw vh s).blit.buf1 = BitVec.ofNat 32 a1 := rfl
@[simp] theorem allocOk_blit_buf2 (a1 a2 size vw vh : Nat) :
    (allocOk a1 a2 size vw vh s).blit.buf2 = BitVec.ofNat 32 a2 := rfl
@[simp] theorem allocOk_blit_bufSize (a1 a2 size vw vh : Nat) :
    (allocOk a1 a2 size vw vh s).blit.bufSize = size := rfl
@[simp] theorem allocOk_blit_allocVw (a1 a2 size vw vh : Nat) :
    (allocOk a1 a2 size vw vh s).blit.allocVw = vw := rfl
@[simp] theorem allocOk_blit_allocVh (a1 a2 size vw vh : Nat) :
    (allocOk a1 a2 size vw vh s).blit.allocVh = vh := rfl
@[simp] theorem allocOk_blit_gfxAborted (a1 a2 size vw vh : Nat) :
    (allocOk a1 a2 size vw vh s).blit.gfxAborted = s.blit.gfxAborted := rfl
@[simp] theorem allocOk_blit_flushRegistered (a1 a2 size vw vh : Nat) :
    (allocOk a1 a2 size vw vh s).blit.flushRegistered = s.blit.flushRegistered := rfl
@[simp] theorem allocOk_blit_regCount (a1 a2 size vw vh : Nat) :
    (allocOk a1 a2 size vw vh s).blit.regCount = s.blit.regCount := rfl
@[simp] theorem allocOk_blit_virtW (a1 a2 size vw vh : Nat) :
    (allocOk a1 a2 size vw vh s).blit.virtW = s.blit.virtW := rfl
@[simp] theorem allocOk_blit_virtH (a1 a2 size vw vh : Nat) :
    (allocOk a1 a2 size vw vh s).blit.virtH = s.blit.virtH := rfl
@[simp] theorem allocOk_blit_completions (a1 a2 size vw vh : Nat) :
    (allocOk a1 a2 size vw vh s).blit.completions = s.blit.completions := rfl
@[simp] theorem allocOk_blit_flushLog (a1 a2 size vw vh : Nat) :
    (allocOk a1 a2 size vw vh s).blit.flushLog = s.blit.flushLog := rfl
@[simp] theorem registerFlush_blit_allocState (vw vh ox oy : Nat) :
    (registerFlush vw vh ox oy s).blit.allocState = s.blit.allocState := rfl
@[simp] theorem registerFlush_blit_buf1 (vw vh ox oy : Nat) :
    (registerFlush vw vh ox oy s).blit.buf1 = s.blit.buf1 := rfl
@[simp] theorem registerFlush_blit_buf2 (vw vh ox oy : Nat) :
    (registerFlush vw vh ox oy s).blit.buf2 = s.blit.buf2 := rfl
@[simp] theorem registerFlush_blit_bufSize (vw vh ox oy : Nat) :
    (registerFlush vw vh ox oy s).blit.bufSize = s.blit.bufSize := rfl
@[simp] theorem registerFlush_blit_allocVw (vw vh ox oy : Nat) :
    (registerFlush vw vh ox oy s).blit.allocVw = s.blit.allocVw := rfl
@[simp] theorem registerFlush_blit_allocVh (vw vh ox oy : Nat) :
    (registerFlush vw vh ox oy s).blit.allocVh = s.blit.allocVh := rfl
@[simp] theorem registerFlush_blit_gfxAborted (vw vh ox oy : Nat) :
    (registerFlush vw vh ox oy s).blit.gfxAborted = s.blit.gfxAborted := rfl
@[simp] theorem registerFlush_blit_flushRegistered (vw vh ox oy : Nat) :
    (registerFlush vw vh ox oy s).blit.flushRegistered = true := rfl
@[simp] theorem registerFlush_blit_regCount (vw vh ox oy : Nat) :
    (registerFlush vw vh ox oy s).blit.regCount = s.blit.regCount + 1 := rfl
@[simp] theorem registerFlush_blit_virtW (vw vh ox oy : Nat) :
    (registerFlush vw vh ox oy s).blit.virtW = BitVec.ofNat 16 vw := rfl
@[simp] theorem registerFlush_blit_virtH (vw vh ox oy : Nat) :
    (registerFlush vw vh ox oy s).blit.virtH = BitVec.ofNat 16 vh := rfl
@[simp] theorem registerFlush_blit_completions (vw vh ox oy : Nat) :
    (registerFlush vw vh ox oy s).blit.completions = s.blit.completions := rfl
@[simp] theorem registerFlush_blit_flushLog (vw vh ox oy : Nat) :
    (registerFlush vw vh ox oy s).blit.flushLog = s.blit.flushLog := rfl

end Sys2Proof.Machine
end

