-- ==== Sys2Proof/Laws/Memory.lean ====
section
/-! SUPPORT. Memory: read after write, and every memory operation keeps the canonical form. -/

namespace Sys2Proof.Machine

@[simp] theorem Memory.read_nil (a : Nat) : Memory.read [] a = none := rfl

theorem Memory.read_cons (k a : Nat) (b : Byte) (m : Memory) :
    Memory.read ((k, b) :: m) a = if k = a then some b else Memory.read m a := rfl

/-- Reading the address just written gives the byte written. -/
@[simp] theorem Memory.read_write_same (m : Memory) (a : Nat) (v : Byte) :
    (Memory.write m a v).read a = some v := by
  induction m with
  | nil => simp [Memory.write, Memory.read]
  | cons c m ih =>
    obtain ⟨k, b⟩ := c
    unfold Memory.write
    split
    · simp [Memory.read]
    · split
      · simp [Memory.read]
      · rename_i h
        simp [Memory.read, Ne.symm h, ih]

/-- A write leaves every other address as it was. -/
theorem Memory.read_write_other (m : Memory) {a a' : Nat} (v : Byte) (h : a' ≠ a) :
    (Memory.write m a v).read a' = m.read a' := by
  induction m with
  | nil => simp [Memory.write, Memory.read, Ne.symm h]
  | cons c m ih =>
    obtain ⟨k, b⟩ := c
    unfold Memory.write
    split
    · simp [Memory.read, Ne.symm h]
    · split
      · rename_i hk
        subst hk
        simp [Memory.read, Ne.symm h]
      · simp [Memory.read, ih]

/-- What a write does to reading, in one equation. -/
theorem Memory.read_write (m : Memory) (a a' : Nat) (v : Byte) :
    (Memory.write m a v).read a' = if a' = a then some v else m.read a' := by
  by_cases h : a' = a
  · subst h; simp
  · simp [h, Memory.read_write_other m v h]

theorem Memory.above_mono {lo lo' : Nat} (h : lo' ≤ lo) {m : Memory} (hm : Memory.above lo m = true) :
    Memory.above lo' m = true := by
  cases m with
  | nil => rfl
  | cons c m =>
    simp only [Memory.above, Bool.and_eq_true, decide_eq_true_eq] at hm ⊢
    exact ⟨lt_of_le_of_lt h hm.1, hm.2⟩

theorem Memory.above_write {lo a : Nat} (v : Byte) (h : lo < a) :
    ∀ {m : Memory}, Memory.above lo m = true → Memory.above lo (Memory.write m a v) = true := by
  intro m
  induction m generalizing lo with
  | nil => intro _; simp [Memory.write, Memory.above, h]
  | cons c m ih =>
    obtain ⟨k, b⟩ := c
    intro hm
    simp only [Memory.above, Bool.and_eq_true, decide_eq_true_eq] at hm
    unfold Memory.write
    split
    · rename_i hk; simp [Memory.above, h, hk, hm.2]
    · split
      · rename_i hk; subst hk; simp [Memory.above, hm.1, hm.2]
      · have hka : k < a := by omega
        simp [Memory.above, hm.1, ih hka hm.2]

/-- A write keeps the canonical form. -/
theorem Memory.wf_write (a : Nat) (v : Byte) {m : Memory} (hm : m.wf = true) :
    (Memory.write m a v).wf = true := by
  cases m with
  | nil => rfl
  | cons c m =>
    obtain ⟨k, b⟩ := c
    simp only [Memory.wf] at hm
    unfold Memory.write
    split
    · rename_i hk; simp [Memory.wf, Memory.above, hk, hm]
    · split
      · rename_i hk; subst hk; exact hm
      · have hka : k < a := by omega
        simpa [Memory.wf] using Memory.above_write v hka hm

/-- A write under `n` keeps every address under `n`. -/
theorem Memory.under_write {n a : Nat} (v : Byte) (h : a < n) {m : Memory}
    (hm : Memory.under n m = true) : Memory.under n (Memory.write m a v) = true := by
  induction m with
  | nil => simp [Memory.write, Memory.under, h]
  | cons c m ih =>
    obtain ⟨k, b⟩ := c
    simp only [Memory.under, List.all_cons, Bool.and_eq_true, decide_eq_true_eq] at hm
    unfold Memory.write
    split
    · simp only [Memory.under, List.all_cons, Bool.and_eq_true, decide_eq_true_eq]
      exact ⟨h, hm⟩
    · split
      · simp only [Memory.under, List.all_cons, Bool.and_eq_true, decide_eq_true_eq]
        exact ⟨h, hm.2⟩
      · have := ih hm.2
        simp only [Memory.under, List.all_cons, Bool.and_eq_true, decide_eq_true_eq] at this ⊢
        exact ⟨hm.1, this⟩

/-- Loading bytes keeps the canonical form. -/
theorem Memory.wf_memWrite (bs : List Byte) :
    ∀ (a : Nat) {m : Memory}, m.wf = true → (memWrite a bs m).wf = true := by
  induction bs with
  | nil => intro a m hm; exact hm
  | cons b bs ih => intro a m hm; exact ih (a + 1) (Memory.wf_write a b hm)

/-- The memory of State.reset has the canonical form. -/
theorem reset_mem_wf : State.reset.mem.wf = true := rfl

/-- Frame buffer 0 after a write to it: the byte written, every other byte as before. -/
theorem fbCells_fbWrite_read (r : RgbState) (i a : Nat) (b : Byte) (h : 0 < r.fb.length) :
    (fbCells (fbWrite 0 i b r) 0).read a = if a = i then some b else (fbCells r 0).read a := by
  cases hfb : r.fb with
  | nil => simp [hfb] at h
  | cons f fs => simp [fbCells, fbWrite, hfb, Memory.read_write]

end Sys2Proof.Machine
end

