-- ==== Sys2Proof/Laws/Agents.lean ====
section
/-! SUPPORT. What the steps of CANENV and SCAN can do, alone and inside a descriptor, said once. -/

namespace Sys2Proof.Machine

/-! ### Choices -/

theorem chosen_mem {α : Type} {as : List α} {s : State} {a : α} (h : chosen as s = some a) : a ∈ as := by
  unfold chosen at h
  split at h
  · cases h
  · cases h; exact List.mem_singleton.mpr rfl
  · exact List.mem_of_getElem? h

/-- There is a choice where there is anything to choose from. -/
theorem exists_chosen {α : Type} {as : List α} (h : as ≠ []) (s : State) : ∃ a, chosen as s = some a := by
  unfold chosen
  split
  · exact absurd rfl h
  · exact ⟨_, rfl⟩
  · exact ⟨_, List.getElem?_eq_getElem (Nat.mod_lt _ (List.length_pos_iff.mpr h))⟩

/-- Everything there is to choose from is chosen by some draw. -/
theorem chosen_of_mem {α : Type} {as : List α} {a : α} (h : a ∈ as) (s : State) :
    ∃ n, ∀ sc, chosen as { s with script := n :: sc } = some a := by
  obtain ⟨n, hn, rfl⟩ := List.getElem_of_mem h
  refine ⟨n, fun sc => ?_⟩
  unfold chosen
  split
  · cases hn
  · simp at hn; subst hn; rfl
  · simp [drawVal, Nat.mod_eq_of_lt hn, List.getElem?_eq_getElem hn]

/-- A choice takes a draw or none. -/
theorem afterChoice_cases {α : Type} (as : List α) (s : State) :
    afterChoice as s = s ∨ afterChoice as s = afterDraw s := by
  unfold afterChoice
  split
  · exact .inl rfl
  · exact .inl rfl
  · exact .inr rfl

/-! ### Scan-out -/

/-- `scanByte` and `scanBytes` change only the draws. -/
theorem scanByte_state (i : Nat) (s : State) :
    (scanByte i s).2 = { s with draws := (scanByte i s).2.draws, script := (scanByte i s).2.script } := by
  unfold scanByte
  simp only
  split <;> rfl

theorem scanBytes_state (is : List Nat) :
    ∀ s : State, (scanBytes is s).2
      = { s with draws := (scanBytes is s).2.draws, script := (scanBytes is s).2.script } := by
  induction is with
  | nil => intro s; rfl
  | cons i is ih =>
    intro s
    have h1 := scanByte_state i s
    have h2 := ih (scanByte i s).2
    simp only [scanBytes]
    rw [h2, h1]

theorem scanBytes_length (is : List Nat) : ∀ s : State, (scanBytes is s).1.length = is.length := by
  induction is with
  | nil => intro s; rfl
  | cons i is ih => intro s; simp [scanBytes, ih]

/-- FRAME_BEGIN in one equation. -/
theorem frameBegin_spec (s : State) :
    ∃ sel n sc, (s.rgb.fbCount.toNat = 1 → sel = 0)
      ∧ (0 < s.rgb.fbCount.toNat → sel < s.rgb.fbCount.toNat)
      ∧ frameBegin s
        = { s with
            rgb :=
              { s.rgb with
                scanOpen := true, scanSel := sel, scanSeen := ⟨fbCells s.rgb sel, []⟩ }
            draws := n, script := sc } := by
  unfold frameBegin
  by_cases h : s.rgb.fbCount.toNat = 1
  · exact ⟨0, s.draws, s.script, fun _ => rfl, fun h' => h', by simp [h]⟩
  · refine ⟨drawVal s % s.rgb.fbCount.toNat, s.draws + 1, s.script.tail, fun h' => absurd h' h,
      fun h' => Nat.mod_lt _ h', ?_⟩
    simp [h, afterDraw]

/-- FRAME_END in one equation. -/
theorem frameEnd_spec (s : State) :
    ∃ f n sc, f.length = frameBytes s.cfg.panelW s.cfg.panelH s.cfg.bytesPP
      ∧ frameEnd s
        = { s with
            rgb := { s.rgb with frames := s.rgb.frames ++ [f], scanOpen := false }
            draws := n, script := sc } := by
  let r := scanBytes (List.range (frameBytes s.cfg.panelW s.cfg.panelH s.cfg.bytesPP)) s
  refine ⟨r.1, r.2.draws, r.2.script, ?_, ?_⟩
  · show (scanBytes _ s).1.length = _
    rw [scanBytes_length, List.length_range]
  · have h : r.2 = { s with draws := r.2.draws, script := r.2.script } := scanBytes_state _ s
    show { r.2 with rgb := { s.rgb with frames := s.rgb.frames ++ [r.1], scanOpen := false } } = _
    rw [h]

/-- A step of SCAN changes only the scan-out elements and the draws. -/
theorem scanStep_only (s : State) : OnlyScanChanges s (scanStep s) := by
  unfold OnlyScanChanges scanStep
  split
  · obtain ⟨f, n, sc, -, h⟩ := frameEnd_spec s
    rw [h]
  · obtain ⟨sel, n, sc, -, -, h⟩ := frameBegin_spec s
    rw [h]

/-! ### CANENV -/

/-- An event of the CAN bus changes only rxq, dropped and CAN_ALERT_STATUS. -/
theorem canStep_only (e : CanEvent) (s : State) : OnlyReceptionChanges s (canStep e s) := by
  unfold OnlyReceptionChanges canStep
  cases e with
  | rx f =>
    simp only [canReceive, raiseAlert]
    split
    · split <;> rfl
    · rfl
  | busErr => rfl
  | errPass => rfl

/-! ### The other agents' steps -/

theorem mem_otherSteps {s : State} {a : AgentStep} :
    a ∈ otherSteps s ↔ (a ≠ .scan ∧ canEnabled s = true) ∨ (a = .scan ∧ scanEnabled s = true) := by
  unfold otherSteps
  cases canEnabled s <;> cases scanEnabled s <;> cases a <;> simp

theorem otherSteps_eq_nil {s : State} :
    otherSteps s = [] ↔ canEnabled s = false ∧ scanEnabled s = false := by
  unfold otherSteps
  cases canEnabled s <;> cases scanEnabled s <;> simp

theorem OthersRan.trans {s t u : State} (h : OthersRan s t) (h' : OthersRan t u) : OthersRan s u := by
  induction h' with
  | refl => exact h
  | draw _ ih => exact ih.draw
  | can e _ he ih => exact ih.can e he
  | scan _ he ih => exact ih.scan he

/-- What a draw and every step of the other agents keep, they keep in any number. -/
theorem OthersRan.keeps {P : State → Prop} (hd : ∀ s, P s → P (afterDraw s))
    (hc : ∀ e s, P s → canEnabled s = true → P (canStep e s))
    (hs : ∀ s, P s → scanEnabled s = true → P (scanStep s)) {s t : State} (h : OthersRan s t) (h0 : P s) :
    P t := by
  induction h with
  | refl => exact h0
  | draw _ ih => exact hd _ ih
  | can e _ he ih => exact hc e _ ih he
  | scan _ he ih => exact hs _ ih he

theorem afterChoice_ran {α : Type} (as : List α) (s : State) : OthersRan s (afterChoice as s) := by
  rcases afterChoice_cases as s with h | h <;> rw [h]
  · exact .refl
  · exact OthersRan.refl.draw

theorem agentStep_ran {s : State} {a : AgentStep} (h : a ∈ otherSteps s) : OthersRan s (agentStep a s) := by
  rcases mem_otherSteps.mp h with ⟨hn, he⟩ | ⟨rfl, he⟩
  · cases a with
    | canRx => exact OthersRan.refl.draw.can (.rx ⟨drawVal s⟩) he
    | canBusErr => exact OthersRan.refl.can .busErr he
    | canErrPass => exact OthersRan.refl.can .errPass he
    | scan => exact absurd rfl hn
  · exact OthersRan.refl.scan he

/-- A draw enables and disables nothing. -/
@[simp] theorem otherSteps_afterChoice {α : Type} (as : List α) (s : State) :
    otherSteps (afterChoice as s) = otherSteps s := by
  rcases afterChoice_cases as s with h | h
  · rw [h]
  · rw [h]; rfl

theorem otherStep_ran (s : State) : OthersRan s (otherStep s) := by
  unfold otherStep
  split
  · exact .refl
  · rename_i a ha
    exact (afterChoice_ran _ s).trans (agentStep_ran (by simpa using chosen_mem ha))

theorem othersStep_ran (n : Nat) : ∀ s, OthersRan s (othersStep n s) := by
  induction n with
  | zero => intro s; exact .refl
  | succ n ih => intro s; exact (otherStep_ran s).trans (ih _)

/-- Inside a descriptor only enabled steps of the other agents happen. -/
theorem letOthersStep_ran (s : State) : OthersRan s (letOthersStep s) := by
  unfold letOthersStep
  split
  · exact .refl
  · exact OthersRan.refl.draw.trans (othersStep_ran _ _)

/-- Nothing happens where neither agent is enabled. -/
theorem letOthersStep_idle {s : State} (hc : canEnabled s = false) (hs : scanEnabled s = false) :
    letOthersStep s = s := by
  unfold letOthersStep
  rw [otherSteps_eq_nil.mpr ⟨hc, hs⟩]

/-- They change only what R283 of 60_exceptions.md says, and the draws. -/
theorem OthersRan.only {s t : State} (h : OthersRan s t) :
    t = { s with
          can :=
            { s.can with rxq := t.can.rxq, dropped := t.can.dropped, alertStatus := t.can.alertStatus }
          rgb :=
            { s.rgb with
              scanOpen := t.rgb.scanOpen, scanSel := t.rgb.scanSel, scanSeen := t.rgb.scanSeen
              frames := t.rgb.frames }
          draws := t.draws, script := t.script } := by
  refine h.keeps (P := fun t => t = { s with
          can :=
            { s.can with rxq := t.can.rxq, dropped := t.can.dropped, alertStatus := t.can.alertStatus }
          rgb :=
            { s.rgb with
              scanOpen := t.rgb.scanOpen, scanSel := t.rgb.scanSel, scanSeen := t.rgb.scanSeen
              frames := t.rgb.frames }
          draws := t.draws, script := t.script }) ?_ ?_ ?_ rfl
  · intro u hu; rw [hu]; rfl
  · intro e u hu _; rw [canStep_only e u, hu]
  · intro u hu _; rw [scanStep_only u, hu]

/-- Where CAN does not run, CANQ stays as it is. -/
theorem OthersRan.can_idle {s t : State} (h : OthersRan s t) (hc : canEnabled s = false) :
    t.can = s.can := by
  refine h.keeps (P := fun t => t.can = s.can) (fun u hu => hu) ?_ ?_ rfl
  · intro e u hu he
    have : canEnabled u = canEnabled s := by unfold canEnabled; rw [hu]
    rw [this, hc] at he
    cases he
  · intro u hu _; rw [scanStep_only u]; exact hu

/-- Where the data plane does not run and no frame is open, RGBTC stays as it is. -/
theorem OthersRan.rgb_idle {s t : State} (h : OthersRan s t) (hs : scanEnabled s = false) :
    t.rgb = s.rgb := by
  refine h.keeps (P := fun t => t.rgb = s.rgb) (fun u hu => hu) ?_ ?_ rfl
  · intro e u hu _; rw [canStep_only e u]; exact hu
  · intro u hu he
    have : scanEnabled u = scanEnabled s := by unfold scanEnabled; rw [hu]
    rw [this, hs] at he
    cases he

theorem OthersRan.cfg_eq {s t : State} (h : OthersRan s t) : t.cfg = s.cfg := by rw [h.only]
theorem OthersRan.desc_eq {s t : State} (h : OthersRan s t) : t.desc = s.desc := by rw [h.only]
theorem OthersRan.pc_eq {s t : State} (h : OthersRan s t) : t.pc = s.pc := by rw [h.only]
theorem OthersRan.res_eq {s t : State} (h : OthersRan s t) : t.res = s.res := by rw [h.only]
theorem OthersRan.rval_eq {s t : State} (h : OthersRan s t) : t.rval = s.rval := by rw [h.only]
theorem OthersRan.rframe_eq {s t : State} (h : OthersRan s t) : t.rframe = s.rframe := by rw [h.only]
theorem OthersRan.fault_eq {s t : State} (h : OthersRan s t) : t.fault = s.fault := by rw [h.only]
theorem OthersRan.qmark_eq {s t : State} (h : OthersRan s t) : t.qmark = s.qmark := by rw [h.only]
theorem OthersRan.now_eq {s t : State} (h : OthersRan s t) : t.now = s.now := by rw [h.only]
theorem OthersRan.seq_eq {s t : State} (h : OthersRan s t) : t.seq = s.seq := by rw [h.only]
theorem OthersRan.blit_eq {s t : State} (h : OthersRan s t) : t.blit = s.blit := by rw [h.only]
theorem OthersRan.mem_eq {s t : State} (h : OthersRan s t) : t.mem = s.mem := by rw [h.only]
theorem OthersRan.diag_eq {s t : State} (h : OthersRan s t) : t.diag = s.diag := by rw [h.only]
theorem OthersRan.fb_eq {s t : State} (h : OthersRan s t) : t.rgb.fb = s.rgb.fb := by rw [h.only]
theorem OthersRan.rgb_phase_eq {s t : State} (h : OthersRan s t) : t.rgb.phase = s.rgb.phase := by
  rw [h.only]
theorem OthersRan.can_phase_eq {s t : State} (h : OthersRan s t) : t.can.phase = s.can.phase := by
  rw [h.only]

@[simp] theorem letOthersStep_cfg (s : State) : (letOthersStep s).cfg = s.cfg :=
  (letOthersStep_ran s).cfg_eq
@[simp] theorem letOthersStep_desc (s : State) : (letOthersStep s).desc = s.desc :=
  (letOthersStep_ran s).desc_eq
@[simp] theorem letOthersStep_pc (s : State) : (letOthersStep s).pc = s.pc :=
  (letOthersStep_ran s).pc_eq
@[simp] theorem letOthersStep_res (s : State) : (letOthersStep s).res = s.res :=
  (letOthersStep_ran s).res_eq
@[simp] theorem letOthersStep_rval (s : State) : (letOthersStep s).rval = s.rval :=
  (letOthersStep_ran s).rval_eq
@[simp] theorem letOthersStep_rframe (s : State) : (letOthersStep s).rframe = s.rframe :=
  (letOthersStep_ran s).rframe_eq
@[simp] theorem letOthersStep_fault (s : State) : (letOthersStep s).fault = s.fault :=
  (letOthersStep_ran s).fault_eq
@[simp] theorem letOthersStep_qmark (s : State) : (letOthersStep s).qmark = s.qmark :=
  (letOthersStep_ran s).qmark_eq
@[simp] theorem letOthersStep_now (s : State) : (letOthersStep s).now = s.now :=
  (letOthersStep_ran s).now_eq
@[simp] theorem letOthersStep_seq (s : State) : (letOthersStep s).seq = s.seq :=
  (letOthersStep_ran s).seq_eq
@[simp] theorem letOthersStep_blit (s : State) : (letOthersStep s).blit = s.blit :=
  (letOthersStep_ran s).blit_eq
@[simp] theorem letOthersStep_mem (s : State) : (letOthersStep s).mem = s.mem :=
  (letOthersStep_ran s).mem_eq
@[simp] theorem letOthersStep_diag (s : State) : (letOthersStep s).diag = s.diag :=
  (letOthersStep_ran s).diag_eq
@[simp] theorem letOthersStep_fb (s : State) : (letOthersStep s).rgb.fb = s.rgb.fb :=
  (letOthersStep_ran s).fb_eq
@[simp] theorem letOthersStep_rgb_phase (s : State) : (letOthersStep s).rgb.phase = s.rgb.phase :=
  (letOthersStep_ran s).rgb_phase_eq
@[simp] theorem letOthersStep_can_phase (s : State) : (letOthersStep s).can.phase = s.can.phase :=
  (letOthersStep_ran s).can_phase_eq

/-! ### They see nothing of HOST's state

`h.withAgents s` is `h` with the agents' part of `s`: CANQ, RGBTC and the draws. With the same
parameters, what the agents do is the same in `s` and in `h.withAgents s`. -/

/-- `h` with CANQ, RGBTC and the draws of `s`. -/
def State.withAgents (h s : State) : State :=
  { h with can := s.can, rgb := s.rgb, draws := s.draws, script := s.script }

theorem afterDraw_withAgents (h s : State) : afterDraw (h.withAgents s) = h.withAgents (afterDraw s) := rfl
theorem drawVal_withAgents (h s : State) : drawVal (h.withAgents s) = drawVal s := rfl
theorem otherSteps_withAgents (h s : State) : otherSteps (h.withAgents s) = otherSteps s := rfl

theorem canStep_withAgents {h s : State} (hc : h.cfg = s.cfg) (e : CanEvent) :
    canStep e (h.withAgents s) = h.withAgents (canStep e s) := by
  cases e <;> simp [canStep, State.withAgents, hc]

theorem scanByte_withAgents (h s : State) (i : Nat) :
    scanByte i (h.withAgents s) = ((scanByte i s).1, h.withAgents (scanByte i s).2) := by
  unfold scanByte
  simp only [drawVal_withAgents, afterDraw_withAgents]
  have : (h.withAgents s).rgb = s.rgb := rfl
  rw [this]
  split <;> rfl

theorem scanBytes_withAgents (h : State) (is : List Nat) :
    ∀ s, scanBytes is (h.withAgents s) = ((scanBytes is s).1, h.withAgents (scanBytes is s).2) := by
  induction is with
  | nil => intro s; rfl
  | cons i is ih => intro s; simp only [scanBytes, scanByte_withAgents, ih]

theorem scanStep_withAgents {h s : State} (hc : h.cfg = s.cfg) :
    scanStep (h.withAgents s) = h.withAgents (scanStep s) := by
  unfold scanStep
  have hr : (h.withAgents s).rgb = s.rgb := rfl
  rw [hr]
  split
  · unfold frameEnd
    have hc' : (h.withAgents s).cfg = s.cfg := hc
    simp only [hc', scanBytes_withAgents, hr]
    rfl
  · unfold frameBegin
    simp only [hr, drawVal_withAgents, afterDraw_withAgents]
    split <;> rfl

theorem OthersRan.withAgents {s t h : State} (r : OthersRan s t) (hc : h.cfg = s.cfg) :
    OthersRan (h.withAgents s) (h.withAgents t) := by
  induction r with
  | refl => exact .refl
  | draw _ ih => exact ih.draw
  | can e r' he ih =>
    rw [← canStep_withAgents (hc.trans r'.cfg_eq.symm)]
    exact ih.can e he
  | scan r' he ih =>
    rw [← scanStep_withAgents (hc.trans r'.cfg_eq.symm)]
    exact ih.scan he

theorem agentStep_withAgents {h s : State} (hc : h.cfg = s.cfg) (a : AgentStep) :
    agentStep a (h.withAgents s) = h.withAgents (agentStep a s) := by
  cases a with
  | canRx => exact canStep_withAgents (s := afterDraw s) hc (.rx ⟨drawVal s⟩)
  | canBusErr => exact canStep_withAgents hc .busErr
  | canErrPass => exact canStep_withAgents hc .errPass
  | scan => exact scanStep_withAgents hc

theorem afterChoice_withAgents {α : Type} (as : List α) (h s : State) :
    afterChoice as (h.withAgents s) = h.withAgents (afterChoice as s) := by
  unfold afterChoice; split <;> rfl

theorem otherStep_withAgents {h s : State} (hc : h.cfg = s.cfg) :
    otherStep (h.withAgents s) = h.withAgents (otherStep s) := by
  unfold otherStep
  have : chosen (otherSteps (h.withAgents s)) (h.withAgents s) = chosen (otherSteps s) s := rfl
  rw [this, otherSteps_withAgents, afterChoice_withAgents]
  split
  · rfl
  · exact agentStep_withAgents (hc.trans (afterChoice_ran _ s).cfg_eq.symm) _

theorem othersStep_withAgents (n : Nat) :
    ∀ {h s : State}, h.cfg = s.cfg → othersStep n (h.withAgents s) = h.withAgents (othersStep n s) := by
  induction n with
  | zero => intro h s _; rfl
  | succ n ih =>
    intro h s hc
    simp only [othersStep]
    rw [otherStep_withAgents hc, ih (hc.trans (otherStep_ran s).cfg_eq.symm)]

/-- What the other agents do between two sub-steps does not depend on HOST's state. -/
theorem letOthersStep_withAgents {h s : State} (hc : h.cfg = s.cfg) :
    letOthersStep (h.withAgents s) = h.withAgents (letOthersStep s) := by
  unfold letOthersStep
  rw [otherSteps_withAgents]
  split
  · rfl
  · rw [drawVal_withAgents, afterDraw_withAgents]
    exact othersStep_withAgents _ hc

/-! ### The clock and SEQ beside the other agents -/

/-- `s` at time `n` with SEQ at `q`. -/
def State.withSeq (s : State) (n : Nat) (q : SeqState) : State := { s with now := n, seq := q }

@[simp] theorem withSeq_withSeq (s : State) (n m : Nat) (q r : SeqState) :
    (s.withSeq n q).withSeq m r = s.withSeq m r := rfl
@[simp] theorem withSeq_now (s : State) (n : Nat) (q : SeqState) : (s.withSeq n q).now = n := rfl
@[simp] theorem withSeq_seq (s : State) (n : Nat) (q : SeqState) : (s.withSeq n q).seq = q := rfl
@[simp] theorem withSeq_cfg (s : State) (n : Nat) (q : SeqState) : (s.withSeq n q).cfg = s.cfg := rfl
@[simp] theorem withSeq_pc (s : State) (n : Nat) (q : SeqState) : (s.withSeq n q).pc = s.pc := rfl
@[simp] theorem drawVal_withSeq (s : State) (n : Nat) (q : SeqState) :
    drawVal (s.withSeq n q) = drawVal s := rfl
@[simp] theorem afterDraw_withSeq (s : State) (n : Nat) (q : SeqState) :
    afterDraw (s.withSeq n q) = (afterDraw s).withSeq n q := rfl
@[simp] theorem withSeq_self (s : State) : s.withSeq s.now s.seq = s := rfl

/-- The other agents do the same whatever the clock and SEQ are. -/
@[simp] theorem letOthersStep_withSeq (s : State) (n : Nat) (q : SeqState) :
    letOthersStep (s.withSeq n q) = (letOthersStep s).withSeq n q := by
  have h := letOthersStep_withAgents (h := s.withSeq n q) (s := s) rfl
  have e := (letOthersStep_ran s).only
  have l : (s.withSeq n q).withAgents s = s.withSeq n q := rfl
  rw [l] at h
  rw [h, e]
  rfl

theorem OthersRan.withSeq {s t : State} (h : OthersRan s t) (n : Nat) (q : SeqState) :
    OthersRan (s.withSeq n q) (t.withSeq n q) := by
  have := h.withAgents (h := s.withSeq n q) rfl
  rw [h.only] at this ⊢
  exact this

/-- After HOST has moved the clock and SEQ, the other agents go on as if it had not. -/
theorem OthersRan.after {s u v : State} {n : Nat} {q : SeqState} (h : OthersRan s u)
    (h' : OthersRan (u.withSeq n q) v) : ∃ w, OthersRan s w ∧ v = w.withSeq n q := by
  have r := h'.withSeq u.now u.seq
  rw [withSeq_withSeq, withSeq_self] at r
  refine ⟨_, h.trans r, ?_⟩
  rw [withSeq_withSeq, h'.only]
  rfl

end Sys2Proof.Machine
end

