-- ==== Sys2Proof/Laws/Ops.lean ====
section
/-! SUPPORT. For each shared operation, what it can do, said once. -/

namespace Sys2Proof.Machine

/-! ### Sub-steps -/

@[simp] theorem Sub.done_andThen (s : State) (k : State → Sub) :
    (Sub.done s).andThen k = k (letOthersStep s) := rfl
@[simp] theorem Sub.raised_andThen (s : State) (c : FaultCode) (n : Nat) (k : State → Sub) :
    (Sub.raised s c n).andThen k = .raised s c n := rfl
@[simp] theorem Sub.refused_andThen (q : RefuseReason) (k : State → Sub) :
    (Sub.refused q).andThen k = .refused q := rfl

/-- A sequence is done when both parts are. -/
theorem Sub.andThen_eq_done {r : Sub} {k : State → Sub} {t : State} :
    r.andThen k = .done t ↔ ∃ s, r = .done s ∧ k (letOthersStep s) = .done t := by
  cases r <;> simp [Sub.andThen]

/-- `P` holds of the state a sub-step ends in, be it done or stopped by a fault. -/
def Sub.Ends (P : State → Prop) : Sub → Prop
  | .done s => P s
  | .raised s _ _ => P s
  | .refused _ => True

@[simp] theorem Sub.ends_done (P : State → Prop) (s : State) : (Sub.done s).Ends P ↔ P s := Iff.rfl
@[simp] theorem Sub.ends_raised (P : State → Prop) (s : State) (c : FaultCode) (n : Nat) :
    (Sub.raised s c n).Ends P ↔ P s := Iff.rfl
@[simp] theorem Sub.ends_refused (P : State → Prop) (q : RefuseReason) :
    (Sub.refused q).Ends P ↔ True := Iff.rfl

/-- What holds after the first part and is kept by the other agents and by the second part holds after
both. -/
theorem Sub.Ends.andThen {P : State → Prop} {r : Sub} {k : State → Sub} (h : r.Ends P)
    (ho : ∀ s, P s → P (letOthersStep s)) (hk : ∀ s, P s → (k s).Ends P) : (r.andThen k).Ends P := by
  cases r with
  | done s => exact hk _ (ho s h)
  | raised s c n => exact h
  | refused q => trivial

/-- How an operation can end: done, PC past it; in a fault, PC kept; refused, with no effect. -/
theorem complete_cases (s0 : State) (n : Nat) (r : Sub) :
    (∃ s, r = .done s ∧ complete s0 n r = { s with pc := s.pc + n })
      ∨ (∃ s c k, r = .raised s c k ∧ complete s0 n r = { s with fault := some ⟨c, s.pc, k⟩ })
      ∨ ∃ q, r = .refused q ∧ complete s0 n r = { s0 with qmark := some q } := by
  cases r with
  | done s => exact .inl ⟨s, rfl, rfl⟩
  | raised s c k => exact .inr (.inl ⟨s, c, k, rfl, rfl⟩)
  | refused q => exact .inr (.inr ⟨q, rfl, rfl⟩)

@[simp] theorem complete_done (s0 s : State) (n : Nat) : complete s0 n (.done s) = advancePc n s := rfl
@[simp] theorem complete_raised (s0 s : State) (n k : Nat) (c : FaultCode) :
    complete s0 n (.raised s c k) = raiseFault c k s := rfl
@[simp] theorem complete_refused (s0 : State) (n : Nat) (q : RefuseReason) :
    complete s0 n (.refused q) = refuse q s0 := rfl

theorem finish_eq (o : Opcode) (s0 : State) (r : Sub) : finish o s0 r = .next (complete s0 o.len r) := rfl

/-- A property kept by moving PC, setting FAULT and setting QMARK holds after an operation when it
holds before it and where its sub-steps end. -/
theorem complete_keeps {P : State → Prop} (hpc : ∀ n s, P s → P (advancePc n s))
    (hf : ∀ c n s, P s → P (raiseFault c n s)) (hq : ∀ q s, P s → P (refuse q s))
    {s0 : State} {n : Nat} {r : Sub} (h0 : P s0) (h : r.Ends P) : P (complete s0 n r) := by
  cases r with
  | done s => exact hpc n s h
  | raised s c k => exact hf c k s h
  | refused q => exact hq q s0 h0

/-- Every instruction answers a next state. -/
theorem exec_answers_next (i : Instr) (s : State) : ∃ t, exec i s = .next t := by
  cases i <;> exact ⟨_, rfl⟩

/-! ### Draws -/

theorem drawVal_script (s : State) (n : Nat) (ns : List Nat) (h : s.script = n :: ns) :
    drawVal s = n := by
  simp [drawVal, h]

/-! ### Waits and transfers, with the other agents inside -/

/-- Wait(n): at least `n` time-units, the Delay event, and whatever the other agents do. -/
theorem wait_eq (n : Nat) (s : State) :
    wait n s
      = (letOthersStep (afterDraw s)).withSeq (s.now + (n + drawVal s))
          { s.seq with log := s.seq.log ++ [.delay s.now n (n + drawVal s)] } := by
  have e : logDelay n (n + drawVal s) (afterDraw s)
      = (afterDraw s).withSeq s.now
          { s.seq with log := s.seq.log ++ [.delay s.now n (n + drawVal s)] } := rfl
  unfold wait
  rw [e, letOthersStep_withSeq]
  rfl

/-- A word sent: a drawn transfer time, the Word event, the scoreboard, and whatever the other agents
do. -/
theorem sendWord_eq (tag : Tag) (b : Byte) (req : Nat) (seen : Bool) (s : State) :
    sendWord tag b req seen s
      = (letOthersStep (afterDraw s)).withSeq (s.now + drawVal s)
          { s.seq with
            log := s.seq.log ++ [.word s.now tag b seen]
            busy := false
            curReq := if seen then (if tag = .command then req else s.seq.curReq) else s.seq.curReq
            quietUntil :=
              if seen then
                max s.seq.quietUntil
                  (s.now + drawVal s + (if tag = .command then req else s.seq.curReq))
              else s.seq.quietUntil } := by
  have e : beginWord (afterDraw s) = (afterDraw s).withSeq s.now { s.seq with busy := true } := rfl
  unfold sendWord
  rw [e, letOthersStep_withSeq]
  rfl

@[simp] theorem wait_cfg (n : Nat) (s : State) : (wait n s).cfg = s.cfg := by simp [wait]
@[simp] theorem wait_desc (n : Nat) (s : State) : (wait n s).desc = s.desc := by simp [wait]
@[simp] theorem wait_pc (n : Nat) (s : State) : (wait n s).pc = s.pc := by simp [wait]
@[simp] theorem wait_res (n : Nat) (s : State) : (wait n s).res = s.res := by simp [wait]
@[simp] theorem wait_rval (n : Nat) (s : State) : (wait n s).rval = s.rval := by simp [wait]
@[simp] theorem wait_rframe (n : Nat) (s : State) : (wait n s).rframe = s.rframe := by simp [wait]
@[simp] theorem wait_fault (n : Nat) (s : State) : (wait n s).fault = s.fault := by simp [wait]
@[simp] theorem wait_qmark (n : Nat) (s : State) : (wait n s).qmark = s.qmark := by simp [wait]
@[simp] theorem wait_blit (n : Nat) (s : State) : (wait n s).blit = s.blit := by simp [wait]
@[simp] theorem wait_mem (n : Nat) (s : State) : (wait n s).mem = s.mem := by simp [wait]
@[simp] theorem wait_diag (n : Nat) (s : State) : (wait n s).diag = s.diag := by simp [wait]
@[simp] theorem wait_now (n : Nat) (s : State) : (wait n s).now = s.now + (n + drawVal s) := by simp [wait]
@[simp] theorem wait_seq (n : Nat) (s : State) :
    (wait n s).seq = { s.seq with log := s.seq.log ++ [.delay s.now n (n + drawVal s)] } := by simp [wait]
@[simp] theorem sendWord_cfg (tag : Tag) (b : Byte) (req : Nat) (seen : Bool) (s : State) :
    (sendWord tag b req seen s).cfg = s.cfg := by simp [sendWord]
@[simp] theorem sendWord_desc (tag : Tag) (b : Byte) (req : Nat) (seen : Bool) (s : State) :
    (sendWord tag b req seen s).desc = s.desc := by simp [sendWord]
@[simp] theorem sendWord_pc (tag : Tag) (b : Byte) (req : Nat) (seen : Bool) (s : State) :
    (sendWord tag b req seen s).pc = s.pc := by simp [sendWord]
@[simp] theorem sendWord_res (tag : Tag) (b : Byte) (req : Nat) (seen : Bool) (s : State) :
    (sendWord tag b req seen s).res = s.res := by simp [sendWord]
@[simp] theorem sendWord_rval (tag : Tag) (b : Byte) (req : Nat) (seen : Bool) (s : State) :
    (sendWord tag b req seen s).rval = s.rval := by simp [sendWord]
@[simp] theorem sendWord_rframe (tag : Tag) (b : Byte) (req : Nat) (seen : Bool) (s : State) :
    (sendWord tag b req seen s).rframe = s.rframe := by simp [sendWord]
@[simp] theorem sendWord_fault (tag : Tag) (b : Byte) (req : Nat) (seen : Bool) (s : State) :
    (sendWord tag b req seen s).fault = s.fault := by simp [sendWord]
@[simp] theorem sendWord_qmark (tag : Tag) (b : Byte) (req : Nat) (seen : Bool) (s : State) :
    (sendWord tag b req seen s).qmark = s.qmark := by simp [sendWord]
@[simp] theorem sendWord_blit (tag : Tag) (b : Byte) (req : Nat) (seen : Bool) (s : State) :
    (sendWord tag b req seen s).blit = s.blit := by simp [sendWord]
@[simp] theorem sendWord_mem (tag : Tag) (b : Byte) (req : Nat) (seen : Bool) (s : State) :
    (sendWord tag b req seen s).mem = s.mem := by simp [sendWord]
@[simp] theorem sendWord_diag (tag : Tag) (b : Byte) (req : Nat) (seen : Bool) (s : State) :
    (sendWord tag b req seen s).diag = s.diag := by simp [sendWord]
@[simp] theorem sendWord_now (tag : Tag) (b : Byte) (req : Nat) (seen : Bool) (s : State) :
    (sendWord tag b req seen s).now = s.now + drawVal s := by simp [sendWord]
@[simp] theorem sendWord_seq_rstLevel (tag : Tag) (b : Byte) (req : Nat) (seen : Bool) (s : State) :
    (sendWord tag b req seen s).seq.rstLevel = s.seq.rstLevel := by simp [sendWord]
@[simp] theorem sendWord_seq_csLevel (tag : Tag) (b : Byte) (req : Nat) (seen : Bool) (s : State) :
    (sendWord tag b req seen s).seq.csLevel = s.seq.csLevel := by simp [sendWord]
@[simp] theorem sendWord_seq_log (tag : Tag) (b : Byte) (req : Nat) (seen : Bool) (s : State) :
    (sendWord tag b req seen s).seq.log = s.seq.log ++ [.word s.now tag b seen] := by simp [sendWord]
@[simp] theorem sendWord_seq_csHeld (tag : Tag) (b : Byte) (req : Nat) (seen : Bool) (s : State) :
    (sendWord tag b req seen s).seq.csHeld = s.seq.csHeld := by simp [sendWord]
@[simp] theorem sendWord_seq_busy (tag : Tag) (b : Byte) (req : Nat) (seen : Bool) (s : State) :
    (sendWord tag b req seen s).seq.busy = false := by simp [sendWord]
@[simp] theorem sendWord_seq_seqDone (tag : Tag) (b : Byte) (req : Nat) (seen : Bool) (s : State) :
    (sendWord tag b req seen s).seq.seqDone = s.seq.seqDone := by simp [sendWord]
@[simp] theorem sendWord_seq_inInitseq (tag : Tag) (b : Byte) (req : Nat) (seen : Bool) (s : State) :
    (sendWord tag b req seen s).seq.inInitseq = s.seq.inInitseq := by simp [sendWord]
@[simp] theorem sendWord_seq_rstLowAt (tag : Tag) (b : Byte) (req : Nat) (seen : Bool) (s : State) :
    (sendWord tag b req seen s).seq.rstLowAt = s.seq.rstLowAt := by simp [sendWord]
@[simp] theorem sendWord_seq_panelReadyAt (tag : Tag) (b : Byte) (req : Nat) (seen : Bool) (s : State) :
    (sendWord tag b req seen s).seq.panelReadyAt = s.seq.panelReadyAt := by simp [sendWord]
@[simp] theorem sendWord_seq_settleUntil (tag : Tag) (b : Byte) (req : Nat) (seen : Bool) (s : State) :
    (sendWord tag b req seen s).seq.settleUntil = s.seq.settleUntil := by simp [sendWord]
@[simp] theorem sendWord_seq_ti (tag : Tag) (b : Byte) (req : Nat) (seen : Bool) (s : State) :
    (sendWord tag b req seen s).seq.ti = s.seq.ti := by simp [sendWord]
theorem sendWord_seq_curReq (tag : Tag) (b : Byte) (req : Nat) (seen : Bool) (s : State) :
    (sendWord tag b req seen s).seq.curReq
      = if seen then (if tag = .command then req else s.seq.curReq) else s.seq.curReq := by
  simp [sendWord, endWord_seq_curReq]
theorem sendWord_seq_quietUntil (tag : Tag) (b : Byte) (req : Nat) (seen : Bool) (s : State) :
    (sendWord tag b req seen s).seq.quietUntil
      = if seen then
          max s.seq.quietUntil
            (s.now + drawVal s + (if tag = .command then req else s.seq.curReq))
        else s.seq.quietUntil := by
  simp [sendWord, endWord_seq_quietUntil]

/-! ### Output lines -/

/-- SETPIN's body: refused when the two lines share a pin, else the pin's effect on SEQ alone. -/
theorem setPin_cases (p : BitVec 8) (l : Bool) (s : State) :
    (s.cfg.rstPin = s.cfg.csPin ∧ setPin p l s = .refused .param)
      ∨ (s.cfg.rstPin ≠ s.cfg.csPin
        ∧ setPin p l s = .done { s with seq := pinEffect s.cfg s.now p l s.seq }) := by
  unfold setPin
  by_cases h : s.cfg.rstPin = s.cfg.csPin
  · exact .inl ⟨h, by simp [h]⟩
  · exact .inr ⟨h, by simp [h]⟩

theorem setPin_done {p : BitVec 8} {l : Bool} {s : State} (h : s.cfg.rstPin ≠ s.cfg.csPin) :
    setPin p l s = .done (s.withSeq s.now (pinEffect s.cfg s.now p l s.seq)) := by
  simp [setPin, h, State.withSeq]

/-- Driving CS_PIN, when it is not RST_PIN. -/
theorem pinEffect_csPin {p : Params} (h : p.rstPin ≠ p.csPin) (now : Nat) (l : Bool) (q : SeqState) :
    pinEffect p now p.csPin l q
      = { q with
          log := q.log ++ [.edge now p.csPin l]
          csLevel := levelOf l
          settleUntil := now + tCs } := by
  simp [pinEffect, csLine, Ne.symm h]

/-- Driving RST_PIN, when it is not CS_PIN. -/
theorem pinEffect_rstPin {p : Params} (h : p.rstPin ≠ p.csPin) (now : Nat) (l : Bool) (q : SeqState) :
    pinEffect p now p.rstPin l q
      = resetLine now l { q with log := q.log ++ [.edge now p.rstPin l] } := by
  simp [pinEffect, h]

/-! ### The control-bus word -/

/-- A word is either stopped by one of the three checks of a seen word, with nothing sent, or sent. -/
theorem checkAndSend_cases (tag : Tag) (b : Byte) (req : Nat) (seen : Bool) (s : State) :
    (checkAndSend tag b req seen s = .raised s .panelNotReady s.now
        ∧ seen = true ∧ panelReady s = false)
      ∨ (∃ n, checkAndSend tag b req seen s = .raised s .delayHazard n
        ∧ seen = true ∧ panelReady s = true)
      ∨ checkAndSend tag b req seen s = .done (sendWord tag b req seen s) := by
  unfold checkAndSend
  cases seen <;> cases hr : panelReady s <;> simp
  split
  · exact .inl ⟨_, rfl⟩
  · split
    · exact .inl ⟨_, rfl⟩
    · exact .inr rfl

/-- A seen word goes out when the panel is ready, settled, and (a command) quiet. -/
theorem checkAndSend_seen_done {tag : Tag} {b : Byte} {req : Nat} {s : State}
    (hr : panelReady s = true) (hs : s.seq.settleUntil ≤ s.now)
    (hq : tag = .command → s.seq.quietUntil ≤ s.now) :
    checkAndSend tag b req true s = .done (sendWord tag b req true s) := by
  unfold checkAndSend
  have h1 : ¬ s.now < s.seq.settleUntil := by omega
  cases tag with
  | data => simp [hr, h1]
  | command =>
    have h2 : ¬ s.now < s.seq.quietUntil := by have := hq rfl; omega
    simp [hr, h1, h2]

theorem checkAndSend_unseen (tag : Tag) (b : Byte) (req : Nat) (s : State) :
    checkAndSend tag b req false s = .done (sendWord tag b req false s) := by
  simp [checkAndSend]

theorem xmitWord_lo {tag : Tag} {b : Byte} {req : Nat} {s : State} (h : s.seq.csLevel = .lo) :
    xmitWord tag b req s = checkAndSend tag b req true s := by
  simp [xmitWord, wordSeen, afterSeen, h]

theorem xmitWord_hi {tag : Tag} {b : Byte} {req : Nat} {s : State} (h : s.seq.csLevel = .hi) :
    xmitWord tag b req s = .done (sendWord tag b req false s) := by
  simp [xmitWord, wordSeen, afterSeen, h, checkAndSend_unseen]

theorem xmitWord_x {tag : Tag} {b : Byte} {req : Nat} {s : State} (h : s.seq.csLevel = .x) :
    xmitWord tag b req s = checkAndSend tag b req (drawBool s) (afterDraw s) := by
  simp [xmitWord, wordSeen, afterSeen, h]

/-- A property kept by a draw and by a word sent is kept by XmitWord. -/
theorem xmitWord_ends {P : State → Prop} (hd : ∀ s, P s → P (afterDraw s))
    (hw : ∀ tag b req seen s, P s → P (sendWord tag b req seen s)) {tag : Tag} {b : Byte} {req : Nat}
    {s : State} (h : P s) : (xmitWord tag b req s).Ends P := by
  have key : ∀ seen u, P u → (checkAndSend tag b req seen u).Ends P := by
    intro seen u hu
    rcases checkAndSend_cases tag b req seen u with h1 | ⟨n, h1, -⟩ | h1
    · rw [h1.1]; exact hu
    · rw [h1]; exact hu
    · rw [h1]; exact hw _ _ _ _ _ hu
  unfold xmitWord afterSeen
  cases s.seq.csLevel
  · exact key _ _ h
  · exact key _ _ h
  · exact key _ _ (hd _ h)

/-! ### The chip-select bracket -/

theorem setCsHeld_eq (b : Bool) (s : State) :
    setCsHeld b s = s.withSeq s.now { s.seq with csHeld := b } := rfl

/-- Enabling chip-select while it is not held, in one equation. -/
theorem csEnable_done {s : State} (hp : s.cfg.rstPin ≠ s.cfg.csPin) (h : s.seq.csHeld = false) :
    csEnable s
      = .done
          ((letOthersStep (afterDraw (letOthersStep s))).withSeq
            (s.now + (tCs + drawVal (letOthersStep s)))
            { s.seq with
              log :=
                s.seq.log
                  ++ [.edge s.now s.cfg.csPin false,
                      .delay s.now tCs (tCs + drawVal (letOthersStep s))]
              csLevel := .lo
              csHeld := true
              settleUntil := s.now + tCs }) := by
  simp [csEnable, h, setPin_done hp, setCsHeld_eq, wait_eq, pinEffect_csPin hp, levelOf]

/-- Disabling chip-select while it is held, in one equation. -/
theorem csDisable_done {s : State} (hp : s.cfg.rstPin ≠ s.cfg.csPin) (h : s.seq.csHeld = true) :
    csDisable s
      = .done
          ((letOthersStep (afterDraw (letOthersStep s))).withSeq
            (s.now + (tCs + drawVal (letOthersStep s)))
            { s.seq with
              log :=
                s.seq.log
                  ++ [.edge s.now s.cfg.csPin true,
                      .delay s.now tCs (tCs + drawVal (letOthersStep s))]
              csLevel := .hi
              csHeld := false
              settleUntil := s.now + tCs }) := by
  simp [csDisable, h, setPin_done hp, setCsHeld_eq, wait_eq, pinEffect_csPin hp, levelOf]

/-- Enabling chip-select is done only with two pins and chip-select not held. -/
theorem csEnable_eq_done {s t : State} (h : csEnable s = .done t) :
    s.cfg.rstPin ≠ s.cfg.csPin ∧ s.seq.csHeld = false := by
  unfold csEnable at h
  split at h
  · cases h
  · rename_i hh
    rcases setPin_cases s.cfg.csPin false s with ⟨-, h1⟩ | ⟨hp, -⟩
    · rw [h1] at h; cases h
    · exact ⟨hp, by simpa using hh⟩

/-- Disabling chip-select is done only with two pins and chip-select held. -/
theorem csDisable_eq_done {s t : State} (h : csDisable s = .done t) :
    s.cfg.rstPin ≠ s.cfg.csPin ∧ s.seq.csHeld = true := by
  unfold csDisable at h
  split at h
  · rename_i hh
    rcases setPin_cases s.cfg.csPin true s with ⟨-, h1⟩ | ⟨hp, -⟩
    · rw [h1] at h; cases h
    · exact ⟨hp, by simpa using hh⟩
  · cases h

/-! ### SEQ's bodies: a property kept by every primitive is kept by each -/

/-- `P` is kept by the primitives SEQ's operations are made of. -/
structure SeqKeeps (P : State → Prop) : Prop where
  draw : ∀ s, P s → P (afterDraw s)
  others : ∀ s, P s → P (letOthersStep s)
  wait : ∀ n s, P s → P (wait n s)
  word : ∀ tag b req seen s, P s → P (sendWord tag b req seen s)
  pin : ∀ p l s, P s → P { s with seq := pinEffect s.cfg s.now p l s.seq }
  held : ∀ b s, P s → P (setCsHeld b s)
  ti : ∀ k s, P s → P (setTi k s)

theorem setPin_ends {P : State → Prop} (hP : SeqKeeps P) {p : BitVec 8} {l : Bool} {s : State}
    (h : P s) : (setPin p l s).Ends P := by
  rcases setPin_cases p l s with ⟨-, h1⟩ | ⟨-, h1⟩
  · rw [h1]; trivial
  · rw [h1]; exact hP.pin p l s h

theorem csEnable_ends {P : State → Prop} (hP : SeqKeeps P) {s : State} (h : P s) :
    (csEnable s).Ends P := by
  unfold csEnable
  split
  · exact h
  · exact (setPin_ends hP h).andThen hP.others (fun u hu => hP.wait _ _ (hP.held _ _ hu))

theorem csDisable_ends {P : State → Prop} (hP : SeqKeeps P) {s : State} (h : P s) :
    (csDisable s).Ends P := by
  unfold csDisable
  split
  · exact (setPin_ends hP h).andThen hP.others (fun u hu => hP.wait _ _ (hP.held _ _ hu))
  · exact h

theorem presetBody_ends {P : State → Prop} (hP : SeqKeeps P) {s : State} (h : P s) :
    (presetBody s).Ends P := by
  unfold presetBody
  exact (setPin_ends hP h).andThen hP.others (fun u hu =>
    (setPin_ends hP (hP.wait _ _ hu)).andThen hP.others (fun v hv => hP.wait _ _ hv))

theorem sendData_ends {P : State → Prop} (hP : SeqKeeps P) (bs : List Byte) :
    ∀ {s : State}, P s → (sendData bs s).Ends P := by
  induction bs with
  | nil => intro s h; exact h
  | cons b bs ih =>
    intro s h
    exact (xmitWord_ends hP.draw hP.word h).andThen hP.others (fun u hu => ih hu)

theorem sendEntry_ends {P : State → Prop} (hP : SeqKeeps P) (e : TranscriptEntry) {s : State}
    (h : P s) : (sendEntry e s).Ends P := by
  unfold sendEntry
  refine ((xmitWord_ends hP.draw hP.word h).andThen hP.others
    (fun u hu => sendData_ends hP _ hu)).andThen hP.others (fun u hu => ?_)
  show P (entryWait e u)
  unfold entryWait
  split
  · exact hP.wait _ _ hu
  · exact hu

theorem replay_ends {P : State → Prop} (hP : SeqKeeps P) (es : List TranscriptEntry) :
    ∀ {k : Nat} {s : State}, P s → (replay k es s).Ends P := by
  induction es with
  | nil => intro k s h; exact h
  | cons e es ih =>
    intro k s h
    exact (sendEntry_ends hP e (hP.ti k s h)).andThen hP.others (fun u hu => ih hu)

theorem initseqBody_ends {P : State → Prop} (hP : SeqKeeps P) (hb : ∀ s, P s → P (beginInitseq s))
    (he : ∀ s, P s → P (endInitseq s)) {s : State} (h : P s) : (initseqBody s).Ends P := by
  unfold initseqBody
  exact (((csEnable_ends hP (hb s h)).andThen hP.others (fun u hu => replay_ends hP _ hu)).andThen
    hP.others (fun u hu => csDisable_ends hP hu)).andThen hP.others (fun u hu => he u hu)

/-! ### The raster operation -/

/-- A property kept by a draw, by the other agents and by each of the writes is kept by the copy. -/
theorem copyBytes_keep {P : State → Prop} (hd : ∀ s, P s → P (afterDraw s))
    (ho : ∀ s, P s → P (letOthersStep s)) (n : Nat) :
    ∀ (ws : List (Nat × Byte)),
      (∀ w ∈ ws, ∀ s, P s → P { s with rgb := fbWrite 0 w.1 w.2 s.rgb }) →
      ∀ s, P s → P (copyBytes n ws s) := by
  induction n with
  | zero => intro ws _ s h; exact h
  | succ n ih =>
    intro ws hw s h
    unfold copyBytes
    split
    · exact h
    · rename_i w hget
      exact ih _ (fun v hv => hw v (List.mem_of_mem_eraseIdx hv)) _
        (hw w (List.mem_of_getElem? hget) _ (ho _ (hd _ h)))

/-- `t` differs from `s` at most in the frame buffers, in what the other agents write, in BLIT's state
and in the draws. -/
def SameButPainting (s t : State) : Prop :=
  t = { s with
        can := { s.can with rxq := t.can.rxq, dropped := t.can.dropped, alertStatus := t.can.alertStatus }
        rgb :=
          { s.rgb with
            fb := t.rgb.fb, scanOpen := t.rgb.scanOpen, scanSel := t.rgb.scanSel
            scanSeen := t.rgb.scanSeen, frames := t.rgb.frames }
        blit := t.blit, draws := t.draws, script := t.script }

theorem SameButPainting.refl (s : State) : SameButPainting s s := rfl

/-- The other agents stay inside it. -/
theorem SameButPainting.others {s t : State} (h : SameButPainting s t) :
    SameButPainting s (letOthersStep t) := by
  unfold SameButPainting at *
  rw [(letOthersStep_ran t).only, h]

/-- The copy changes nothing else, and BLIT's state neither. -/
theorem copyBytes_only (n : Nat) (ws : List (Nat × Byte)) (s : State) :
    SameButPainting s (copyBytes n ws s) ∧ (copyBytes n ws s).blit = s.blit :=
  copyBytes_keep (P := fun t => SameButPainting s t ∧ t.blit = s.blit)
    (fun t ht => ⟨by unfold SameButPainting at *; rw [ht.1]; rfl, ht.2⟩)
    (fun t ht => ⟨ht.1.others, by simpa using ht.2⟩) n ws
    (fun w _ t ht => ⟨by unfold SameButPainting at *; rw [ht.1]; rfl, ht.2⟩) s ⟨rfl, rfl⟩

/-- The copy leaves CANQ as it is where CAN does not run. -/
theorem copyBytes_can_idle (n : Nat) (ws : List (Nat × Byte)) {s : State} (h : canEnabled s = false) :
    (copyBytes n ws s).can = s.can :=
  copyBytes_keep (P := fun t => t.can = s.can) (fun t ht => ht)
    (fun t ht => ((letOthersStep_ran t).can_idle (by rw [canEnabled, ht]; exact h)).trans ht) n ws
    (fun w _ t ht => ht) s rfl

/-- The copy writes frame buffer 0 only, and keeps how many there are. -/
theorem copyBytes_others (n : Nat) (ws : List (Nat × Byte)) (s : State) :
    (copyBytes n ws s).rgb.fb.length = s.rgb.fb.length
      ∧ ∀ k, k ≠ 0 → (copyBytes n ws s).rgb.fb[k]? = s.rgb.fb[k]? := by
  refine copyBytes_keep
    (P := fun t => t.rgb.fb.length = s.rgb.fb.length ∧ ∀ k, k ≠ 0 → t.rgb.fb[k]? = s.rgb.fb[k]?)
    (fun t ht => ht) (fun t ht => by rw [letOthersStep_fb]; exact ht) n ws ?_ s ⟨rfl, fun _ _ => rfl⟩
  rintro w - t ⟨h1, h2⟩
  refine ⟨by simpa [fbWrite] using h1, fun k hk => ?_⟩
  rw [← h2 k hk]
  simp [fbWrite, Ne.symm hk]

/-- What frame buffer 0 holds after all the writes of the copy: where the writes go to different
indexes, each byte written, and every other byte as before, whatever the order. -/
theorem copyBytes_read (ws : List (Nat × Byte)) :
    ∀ (s : State), 0 < s.rgb.fb.length → (ws.map Prod.fst).Nodup →
      (∀ w ∈ ws, (fbCells (copyBytes ws.length ws s).rgb 0).read w.1 = some w.2)
        ∧ ∀ i, (∀ w ∈ ws, i ≠ w.1) →
          (fbCells (copyBytes ws.length ws s).rgb 0).read i = (fbCells s.rgb 0).read i := by
  induction hn : ws.length generalizing ws with
  | zero =>
    intro s _ _
    have : ws = [] := List.length_eq_zero_iff.mp hn
    subst this
    exact ⟨by simp, fun i _ => rfl⟩
  | succ n ih =>
    intro s hl hd
    have hj : drawVal s % (n + 1) < ws.length := by rw [hn]; exact Nat.mod_lt _ (by omega)
    have hget : ws[drawVal s % ws.length]? = some (ws[drawVal s % (n + 1)]'hj) := by
      rw [hn]; exact List.getElem?_eq_getElem hj
    simp only [copyBytes, hget]
    rw [hn]
    set j := drawVal s % (n + 1) with hjdef
    set w := ws[j]'hj with hw
    set s2 := letOthersStep (afterDraw s) with hs2
    have hperm : (w :: ws.eraseIdx j).Perm ws := List.getElem_cons_eraseIdx_perm hj
    have hd' : (w.1 :: (ws.eraseIdx j).map Prod.fst).Nodup :=
      ((hperm.map Prod.fst).nodup_iff).mpr hd
    have hfb : s2.rgb.fb = s.rgb.fb := letOthersStep_fb _
    have hcells : ∀ i, (fbCells s2.rgb 0).read i = (fbCells s.rgb 0).read i := by
      intro i; simp [fbCells, hfb]
    have hl2 : 0 < s2.rgb.fb.length := by rw [hfb]; exact hl
    have hl3 : 0 < (fbWrite 0 w.1 w.2 s2.rgb).fb.length := by simpa [fbWrite] using hl2
    obtain ⟨h1, h2⟩ := ih (ws.eraseIdx j) (by rw [List.length_eraseIdx_of_lt hj]; omega)
      { s2 with rgb := fbWrite 0 w.1 w.2 s2.rgb } hl3 (List.nodup_cons.mp hd').2
    have hnot : ∀ v ∈ ws.eraseIdx j, w.1 ≠ v.1 := by
      intro v hv he
      exact (List.nodup_cons.mp hd').1 (he ▸ List.mem_map_of_mem hv)
    constructor
    · intro v hv
      rcases List.mem_cons.mp (hperm.mem_iff.mpr hv) with rfl | hv
      · rw [h2 _ hnot]
        simp [fbCells_fbWrite_read _ _ _ _ hl2]
      · exact h1 v hv
    · intro i hi
      have hi' : ∀ v ∈ w :: ws.eraseIdx j, i ≠ v.1 := fun v hv => hi v (hperm.mem_iff.mp hv)
      rw [h2 i (fun v hv => hi' v (List.mem_cons_of_mem _ hv))]
      simp [fbCells_fbWrite_read _ _ _ _ hl2, hi' w (List.mem_cons_self), hcells]

/-- Gathering the source bytes: they are all written and the plan's destinations are kept in order, or
the first address of the plan that was never written is given. -/
theorem gather_cases (m : Memory) (ps : List (Nat × Nat)) :
    (∃ ws, gather m ps = .ok ws
        ∧ ws.map (fun w => (w.1, some w.2)) = ps.map (fun p => (p.2, memByte m p.1)))
      ∨ ∃ before a d after, ps = before ++ (a, d) :: after ∧ gather m ps = .error a
        ∧ memByte m a = none ∧ ∀ p ∈ before, memByte m p.1 ≠ none := by
  induction ps with
  | nil => exact .inl ⟨[], rfl, rfl⟩
  | cons p ps ih =>
    obtain ⟨a, d⟩ := p
    cases hb : memByte m a with
    | none => exact .inr ⟨[], a, d, ps, rfl, by simp [gather, hb], hb, by simp⟩
    | some b =>
      rcases ih with ⟨ws, hws, hmap⟩ | ⟨before, a', d', after, hps, hg, hn, hbefore⟩
      · exact .inl ⟨(d, b) :: ws, by simp [gather, hb, hws], by simp [hmap, hb]⟩
      · refine .inr ⟨(a, d) :: before, a', d', after, by simp [hps], by simp [gather, hb, hg], hn, ?_⟩
        intro p hp
        rcases List.mem_cons.mp hp with rfl | hp
        · simp [hb]
        · exact hbefore p hp

/-- BlitBody's outcomes, in the order of its checks. -/
theorem blitBody_cases (w : Window) (px : Nat) (s : State) :
    (s.rgb.phase ≠ .running ∧ blitBody w px s = .raised s .blitNoPanel s.pc)
      ∨ (s.rgb.phase = .running ∧ degenerate s.cfg w = true ∧ blitBody w px s = .done s)
      ∨ (s.rgb.phase = .running ∧ degenerate s.cfg w = false ∧ px % s.cfg.bytesPP ≠ 0
        ∧ blitBody w px s = .raised s .misaligned px)
      ∨ (∃ a, s.rgb.phase = .running ∧ degenerate s.cfg w = false ∧ px % s.cfg.bytesPP = 0
        ∧ gather s.mem (transferPlan s.cfg s.rgb.hRes.toNat w px) = .error a
        ∧ blitBody w px s = .raised s .unwrittenRead a)
      ∨ ∃ ws, s.rgb.phase = .running ∧ degenerate s.cfg w = false ∧ px % s.cfg.bytesPP = 0
        ∧ gather s.mem (transferPlan s.cfg s.rgb.hRes.toNat w px) = .ok ws
        ∧ blitBody w px s = .done (copyBytes ws.length ws (countBlit s)) := by
  unfold blitBody
  by_cases h1 : s.rgb.phase = .running
  · cases h2 : degenerate s.cfg w with
    | true => simp [h1]
    | false =>
      by_cases h3 : px % s.cfg.bytesPP = 0
      · cases h4 : gather s.mem (transferPlan s.cfg s.rgb.hRes.toNat w px) with
        | error a => simp [h1, h3]
        | ok ws => simp [h1, h3]
      · simp [h1, h3]
  · simp [h1]

/-- The members of the transfer plan. -/
theorem mem_transferPlan {p : Params} {hRes px : Nat} {w : Window} {q : Nat × Nat} :
    q ∈ transferPlan p hRes w px ↔
      ∃ x y j, w.xs ≤ x ∧ x < clampX p w ∧ w.ys ≤ y ∧ y < clampY p w ∧ j < p.bytesPP
        ∧ q = (srcAddr p w px x y + j, fbIndex hRes p.bytesPP x y j) := by
  simp only [transferPlan, natsFrom, List.mem_flatMap, List.mem_map, List.mem_range]
  constructor
  · rintro ⟨y, ⟨a, ha, rfl⟩, x, ⟨b, hb, rfl⟩, j, hj, rfl⟩
    exact ⟨_, _, j, by omega, by omega, by omega, by omega, hj, rfl⟩
  · rintro ⟨x, y, j, hx, hx', hy, hy', hj, rfl⟩
    exact ⟨y, ⟨y - w.ys, by omega, by omega⟩, x, ⟨x - w.xs, by omega, by omega⟩, j, hj, rfl⟩

/-! ### Segments of the transfer log -/

/-- Two segments that follow one another in time make one. -/
theorem EventsRun.append {e1 e2 : List Event} :
    ∀ {a b c : Nat}, EventsRun a e1 b → EventsRun b e2 c → EventsRun a (e1 ++ e2) c := by
  induction e1 with
  | nil => intro a b c h g; cases h; exact g
  | cons e es ih =>
    intro a b c h g
    cases e with
    | edge => exact ⟨h.1, ih h.2 g⟩
    | delay => exact ⟨h.1, h.2.1, ih h.2.2 g⟩
    | word =>
      obtain ⟨h1, a', h2, h3⟩ := h
      exact ⟨h1, a', h2, ih h3 g⟩

end Sys2Proof.Machine
end

