-- ==== Sys2Proof/Laws/Instr.lean ====
section
/-! SUPPORT. What the operations of each sub-unit can change at all, said once for each sub-unit. -/

namespace Sys2Proof.Machine

/-- `t` differs from `s` at most in SEQ's state, the clock, what the other agents write and the draws. -/
def SameButSeq (s t : State) : Prop :=
  t = { s with
        now := t.now, seq := t.seq
        can := { s.can with rxq := t.can.rxq, dropped := t.can.dropped, alertStatus := t.can.alertStatus }
        rgb :=
          { s.rgb with
            scanOpen := t.rgb.scanOpen, scanSel := t.rgb.scanSel, scanSeen := t.rgb.scanSeen
            frames := t.rgb.frames }
        draws := t.draws, script := t.script }

theorem SameButSeq.refl (s : State) : SameButSeq s s := rfl

/-- The other agents stay inside it. -/
theorem SameButSeq.others {s t : State} (h : SameButSeq s t) : SameButSeq s (letOthersStep t) := by
  unfold SameButSeq at *
  rw [(letOthersStep_ran t).only, h]

theorem SameButSeq.draw {s t : State} (h : SameButSeq s t) : SameButSeq s (afterDraw t) := by
  unfold SameButSeq at *; rw [h]; rfl

theorem SameButSeq.withSeq {s t : State} (h : SameButSeq s t) (n : Nat) (q : SeqState) :
    SameButSeq s (t.withSeq n q) := by
  unfold SameButSeq at *; rw [h]; rfl

/-- SEQ's primitives change nothing else. -/
theorem sameButSeq_keeps (s : State) : SeqKeeps (SameButSeq s) where
  draw _ ht := ht.draw
  others _ ht := ht.others
  wait n t ht := by rw [wait_eq]; exact ht.draw.others.withSeq _ _
  word tag b req seen t ht := by rw [sendWord_eq]; exact ht.draw.others.withSeq _ _
  pin p l t ht := ht.withSeq t.now _
  held b t ht := ht.withSeq t.now _
  ti k t ht := ht.withSeq t.now _

/-- The operations of SEQ: besides SEQ's state, the clock, what the other agents write and the draws, only
the end of an operation (PC, FAULT, QMARK). -/
theorem exec_seq_changes {i : Instr} {s t : State}
    (hi : i.opcode ∈ [Opcode.wrcmd, .wrdata, .delay, .csen, .csdis, .preset, .initseq, .setpin])
    (h : exec i s = .next t) :
    t = { s with
          pc := t.pc, fault := t.fault, qmark := t.qmark, now := t.now, seq := t.seq
          can := { s.can with rxq := t.can.rxq, dropped := t.can.dropped, alertStatus := t.can.alertStatus }
          rgb :=
            { s.rgb with
              scanOpen := t.rgb.scanOpen, scanSel := t.rgb.scanSel, scanSeen := t.rgb.scanSeen
              frames := t.rgb.frames }
          draws := t.draws, script := t.script } := by
  have key : ∀ (o : Opcode) (r : Sub), r.Ends (SameButSeq s) → finish o s r = .next t →
      t = { s with
            pc := t.pc, fault := t.fault, qmark := t.qmark, now := t.now, seq := t.seq
            can := { s.can with rxq := t.can.rxq, dropped := t.can.dropped, alertStatus := t.can.alertStatus }
            rgb :=
              { s.rgb with
                scanOpen := t.rgb.scanOpen, scanSel := t.rgb.scanSel, scanSeen := t.rgb.scanSeen
                frames := t.rgb.frames }
            draws := t.draws, script := t.script } := by
    intro o r hr hf
    cases hf
    cases r with
    | done u =>
      have hu : SameButSeq s u := hr
      unfold SameButSeq at hu
      show advancePc o.len u = _
      rw [hu]
      rfl
    | raised u c n =>
      have hu : SameButSeq s u := hr
      unfold SameButSeq at hu
      show raiseFault c n u = _
      rw [hu]
      rfl
    | refused q => rfl
  have hP := sameButSeq_keeps s
  have hr := SameButSeq.refl s
  cases i with
  | wrcmd c => exact key _ _ (xmitWord_ends hP.draw hP.word hr) h
  | wrdata b => exact key _ _ (xmitWord_ends hP.draw hP.word hr) h
  | delay n => exact key _ (.done _) (hP.wait n s hr) h
  | csen => exact key _ _ (csEnable_ends hP hr) h
  | csdis => exact key _ _ (csDisable_ends hP hr) h
  | preset => exact key _ _ (presetBody_ends hP hr) h
  | initseq =>
    exact key _ _ (initseqBody_ends hP (fun u hu => hu.withSeq u.now _) (fun u hu => hu.withSeq u.now _) hr) h
  | setpin p l => exact key _ _ (setPin_ends hP hr) h
  | _ => simp [Instr.opcode] at hi

/-- What the two draws of CANCFG can change. -/
theorem installOutcome_only (c : BusConfig) (s : State) :
    ∃ r ca d n sc, installOutcome c s
      = { s with res := r, can := ca, diag := d, draws := n, script := sc } := by
  unfold installOutcome
  split
  · unfold startOutcome
    split
    · exact ⟨_, _, _, _, _, rfl⟩
    · exact ⟨_, _, _, _, _, rfl⟩
  · exact ⟨_, _, _, _, _, rfl⟩

/-- What CANRECV can change. -/
theorem receive_only (s : State) :
    ∃ r f ca, receive s = { s with res := r, rframe := f, can := ca } := by
  unfold receive
  split <;> exact ⟨_, _, _, rfl⟩

/-- What the handle draw of DPCFG, and the other agents beside it, can change. -/
theorem planeOutcome_only (c : PlaneConfig) (s : State) :
    ∃ r rg d n sc q dr al, planeOutcome c s
      = { s with
          res := r, rgb := rg, diag := d, draws := n, script := sc
          can := { s.can with rxq := q, dropped := dr, alertStatus := al } } := by
  unfold planeOutcome
  simp only
  split
  · rw [(letOthersStep_ran (startPlane c (letOthersStep (afterDraw s)))).only,
      (letOthersStep_ran (afterDraw s)).only]
    exact ⟨_, _, _, _, _, _, _, _, rfl⟩
  · rw [(letOthersStep_ran (failPlane (letOthersStep (afterDraw s)))).only,
      (letOthersStep_ran (afterDraw s)).only]
    exact ⟨_, _, _, _, _, _, _, _, rfl⟩

/-- What the address draw of BUFALLOC can change. -/
theorem allocOutcome_only (vw vh size : Nat) (s : State) :
    ∃ r b d n sc, allocOutcome vw vh size s
      = { s with res := r, blit := b, diag := d, draws := n, script := sc } := by
  unfold allocOutcome
  simp only
  split <;> exact ⟨_, _, _, _, _, rfl⟩

/-- The operations of CANQ: besides CANQ's state, the result registers, diag and the draws, only the end
of an operation. None of them raises a fault. -/
theorem exec_can_changes {i : Instr} {s t : State}
    (hi : i.opcode ∈ [Opcode.cancfg, .canrecv, .canalrt]) (h : exec i s = .next t) :
    t = { s with
          pc := t.pc, qmark := t.qmark, res := t.res, rval := t.rval, rframe := t.rframe, can := t.can
          diag := t.diag, draws := t.draws, script := t.script } := by
  cases i with
  | cancfg c =>
    simp only [exec, execCancfg] at h
    split at h
    · cases h; rfl
    · split at h
      · cases h; rfl
      · cases h
        obtain ⟨r, ca, d, n, sc, e⟩ := installOutcome_only c (markTried s)
        rw [complete_done, e]
        rfl
  | canrecv =>
    simp only [exec, execCanrecv] at h
    cases h
    obtain ⟨r, f, ca, e⟩ := receive_only s
    rw [complete_done, e]
    rfl
  | canalrt => cases h; rfl
  | _ => simp [Instr.opcode] at hi

/-- The operations of RGBTC: besides RGBTC's state, RES, diag, what CANENV writes and the draws, only the
end of an operation. -/
theorem exec_rgb_changes {i : Instr} {s t : State} (hi : i.opcode ∈ [Opcode.dpcfg, .blset])
    (h : exec i s = .next t) :
    t = { s with
          pc := t.pc, fault := t.fault, qmark := t.qmark, res := t.res, rgb := t.rgb, diag := t.diag
          can := { s.can with rxq := t.can.rxq, dropped := t.can.dropped, alertStatus := t.can.alertStatus }
          draws := t.draws, script := t.script } := by
  cases i with
  | dpcfg c =>
    simp only [exec, execDpcfg] at h
    split at h
    · cases h; rfl
    · split at h
      · cases h; rfl
      · split at h
        · cases h; rfl
        · cases h
          obtain ⟨r, rg, d, n, sc, q, dr, al, e⟩ := planeOutcome_only c s
          rw [complete_done, e]
          rfl
  | blset r =>
    simp only [exec, execBlset] at h
    split at h
    · cases h; rfl
    · split at h <;> cases h <;> rfl
  | _ => simp [Instr.opcode] at hi

/-- What a raster operation ends in: the given state, or the state after its copy. -/
theorem blitBody_ends {P : State → Prop} {w : Window} {px : Nat} {s : State} (h : P s)
    (hc : ∀ ws, P (copyBytes ws.length ws (countBlit s))) : (blitBody w px s).Ends P := by
  rcases blitBody_cases w px s with ⟨-, h1⟩ | ⟨-, -, h1⟩ | ⟨-, -, -, h1⟩ | ⟨a, -, -, -, -, h1⟩
    | ⟨ws, -, -, -, -, h1⟩ <;> rw [h1]
  · exact h
  · exact h
  · exact h
  · exact h
  · exact hc ws

/-- The raster operation changes nothing else. -/
theorem blitBody_painting (w : Window) (px : Nat) (s : State) :
    (blitBody w px s).Ends (SameButPainting s) := by
  refine blitBody_ends rfl (fun ws => ?_)
  have h := (copyBytes_only ws.length ws (countBlit s)).1
  unfold SameButPainting at *
  rw [h]
  rfl

/-- The operations of BLIT: besides BLIT's state, the frame buffers, what the other agents write, RES, diag
and the draws, only the end of an operation. -/
theorem exec_blit_changes {i : Instr} {s t : State}
    (hi : i.opcode ∈ [Opcode.bufalloc, .flushreg, .flush, .blit]) (h : exec i s = .next t) :
    t = { s with
          pc := t.pc, fault := t.fault, qmark := t.qmark, res := t.res, diag := t.diag
          can := { s.can with rxq := t.can.rxq, dropped := t.can.dropped, alertStatus := t.can.alertStatus }
          rgb :=
            { s.rgb with
              fb := t.rgb.fb, scanOpen := t.rgb.scanOpen, scanSel := t.rgb.scanSel
              scanSeen := t.rgb.scanSeen, frames := t.rgb.frames }
          blit := t.blit, draws := t.draws, script := t.script } := by
  have key : ∀ (o : Opcode) (r : Sub), r.Ends (SameButPainting s) → finish o s r = .next t →
      t = { s with
            pc := t.pc, fault := t.fault, qmark := t.qmark, res := t.res, diag := t.diag
            can :=
              { s.can with rxq := t.can.rxq, dropped := t.can.dropped, alertStatus := t.can.alertStatus }
            rgb :=
              { s.rgb with
                fb := t.rgb.fb, scanOpen := t.rgb.scanOpen, scanSel := t.rgb.scanSel
                scanSeen := t.rgb.scanSeen, frames := t.rgb.frames }
            blit := t.blit, draws := t.draws, script := t.script } := by
    intro o r hr hf
    cases hf
    cases r with
    | done u =>
      have hu : SameButPainting s u := hr
      unfold SameButPainting at hu
      show advancePc o.len u = _
      rw [hu]
      rfl
    | raised u c n =>
      have hu : SameButPainting s u := hr
      unfold SameButPainting at hu
      show raiseFault c n u = _
      rw [hu]
      rfl
    | refused q => rfl
  cases i with
  | bufalloc vw vh bpp f =>
    simp only [exec, execBufalloc] at h
    split at h
    · cases h; rfl
    · split at h
      · cases h; rfl
      · split at h
        · cases h; rfl
        · split at h
          · cases h; rfl
          · cases h
            obtain ⟨r, b, d, n, sc, e⟩ := allocOutcome_only vw vh (bufferSize vw vh bpp f) s
            rw [complete_done, e]
            rfl
  | flushreg vw vh ox oy rot =>
    simp only [exec, execFlushreg] at h
    split at h
    · cases h; rfl
    · split at h
      · cases h; rfl
      · split at h
        · cases h; rfl
        · split at h
          · cases h; rfl
          · split at h <;> cases h <;> rfl
  | flush x1 y1 x2 y2 px =>
    simp only [exec, execFlush] at h
    split at h
    · cases h; rfl
    · split at h
      · cases h; rfl
      · split at h
        · cases h; rfl
        · refine key _ _
            ((blitBody_painting _ _ s).andThen (fun u hu => hu.others) (fun u hu => ?_)) h
          unfold SameButPainting at hu
          show SameButPainting s (signalCompletion _ u)
          unfold SameButPainting
          rw [hu]
          rfl
  | blit xs xe ys ye px => exact key _ _ (blitBody_painting _ _ s) h
  | _ => simp [Instr.opcode] at hi

end Sys2Proof.Machine
end

