-- ==== Sys2Proof/Laws/Words.lean ====
section
/-! SUPPORT. Packing a word and reading its fields back, once per packing. -/

namespace Sys2Proof

/-- A field inside the low part of a concatenation. -/
theorem extract_append_low {m n : Nat} (x : BitVec m) (y : BitVec n) {s l : Nat} (h : s + l ≤ n) :
    (x ++ y).extractLsb' s l = y.extractLsb' s l := BitVec.extractLsb'_append_eq_of_add_le h

/-- A field inside the high part of a concatenation. -/
theorem extract_append_high {m n : Nat} (x : BitVec m) (y : BitVec n) {s l : Nat} (h : n ≤ s) :
    (x ++ y).extractLsb' s l = x.extractLsb' (s - n) l := BitVec.extractLsb'_append_eq_of_le h

/-! ### The header word -/

@[simp] theorem byteOf_zero_header (o : Opcode) (a8 : BitVec 8) (n : Nat) :
    byteOf 0 (header o a8 n) = o.byte :=
  (extract_append_low (BitVec.ofNat 16 n) (a8 ++ o.byte) (by decide)).trans
    BitVec.extractLsb'_append_eq_right

@[simp] theorem byteOf_one_header (o : Opcode) (a8 : BitVec 8) (n : Nat) :
    byteOf 1 (header o a8 n) = a8 :=
  (extract_append_low (BitVec.ofNat 16 n) (a8 ++ o.byte) (by decide)).trans
    BitVec.extractLsb'_append_eq_left

@[simp] theorem hi16_header (o : Opcode) (a8 : BitVec 8) (n : Nat) :
    hi16 (header o a8 n) = n % 2 ^ 16 := by
  have h : (header o a8 n).extractLsb' 16 16 = BitVec.ofNat 16 n :=
    BitVec.extractLsb'_append_eq_left (a := BitVec.ofNat 16 n) (b := a8 ++ o.byte)
  rw [hi16, h, BitVec.toNat_ofNat]

/-! ### Words of two 16-bit fields and of four bytes -/

@[simp] theorem lo16_pack16 (a b : Nat) : lo16 (pack16 a b) = a % 2 ^ 16 := by
  have h : (pack16 a b).extractLsb' 0 16 = BitVec.ofNat 16 a :=
    BitVec.extractLsb'_append_eq_right (a := BitVec.ofNat 16 b) (b := BitVec.ofNat 16 a)
  rw [lo16, h, BitVec.toNat_ofNat]

@[simp] theorem hi16_pack16 (a b : Nat) : hi16 (pack16 a b) = b % 2 ^ 16 := by
  have h : (pack16 a b).extractLsb' 16 16 = BitVec.ofNat 16 b :=
    BitVec.extractLsb'_append_eq_left (a := BitVec.ofNat 16 b) (b := BitVec.ofNat 16 a)
  rw [hi16, h, BitVec.toNat_ofNat]

@[simp] theorem byteOf_zero_pack8 (b0 b1 b2 b3 : BitVec 8) : byteOf 0 (pack8 b0 b1 b2 b3) = b0 :=
  (extract_append_low b3 (b2 ++ (b1 ++ b0)) (by decide)).trans
    ((extract_append_low b2 (b1 ++ b0) (by decide)).trans BitVec.extractLsb'_append_eq_right)

@[simp] theorem byteOf_one_pack8 (b0 b1 b2 b3 : BitVec 8) : byteOf 1 (pack8 b0 b1 b2 b3) = b1 :=
  (extract_append_low b3 (b2 ++ (b1 ++ b0)) (by decide)).trans
    ((extract_append_low b2 (b1 ++ b0) (by decide)).trans BitVec.extractLsb'_append_eq_left)

@[simp] theorem byteOf_two_pack8 (b0 b1 b2 b3 : BitVec 8) : byteOf 2 (pack8 b0 b1 b2 b3) = b2 :=
  (extract_append_low b3 (b2 ++ (b1 ++ b0)) (by decide)).trans BitVec.extractLsb'_append_eq_left

@[simp] theorem byteOf_three_pack8 (b0 b1 b2 b3 : BitVec 8) : byteOf 3 (pack8 b0 b1 b2 b3) = b3 :=
  BitVec.extractLsb'_append_eq_left

/-- A word is its two halves, packed. -/
theorem pack16_halves (v : Word) : pack16 (lo16 v) (hi16 v) = v := by
  have h : v.extractLsb' 16 16 ++ v.extractLsb' 0 16 = v := by
    apply BitVec.eq_of_getLsbD_eq
    intro k hk
    rw [BitVec.getLsbD_append]
    split
    · rename_i h; simp [h]
    · rename_i h
      have h1 : k - 16 < 16 := by omega
      have h2 : 16 + (k - 16) = k := by omega
      simp [h1, h2]
  unfold pack16 lo16 hi16
  rw [BitVec.ofNat_toNat, BitVec.ofNat_toNat, BitVec.setWidth_eq, BitVec.setWidth_eq]
  exact h

/-- A word is its four bytes, packed. -/
theorem pack8_bytes (v : Word) : pack8 (byteOf 0 v) (byteOf 1 v) (byteOf 2 v) (byteOf 3 v) = v := by
  apply BitVec.eq_of_getLsbD_eq
  intro k hk
  have h : pack8 (byteOf 0 v) (byteOf 1 v) (byteOf 2 v) (byteOf 3 v)
      = v.extractLsb' 24 8 ++ (v.extractLsb' 16 8 ++ (v.extractLsb' 8 8 ++ v.extractLsb' 0 8)) := rfl
  rw [h, BitVec.getLsbD_append]
  split
  · rename_i h1
    rw [BitVec.getLsbD_append]
    split
    · rename_i h2
      rw [BitVec.getLsbD_append]
      split
      · rename_i h3; simp [h3]
      · rename_i h3
        have h4 : k - 8 < 8 := by omega
        have h5 : 8 + (k - 8) = k := by omega
        simp [h4, h5]
    · rename_i h2
      have h4 : k - 16 < 8 := by omega
      have h5 : 16 + (k - 16) = k := by omega
      simp [h4, h5]
  · rename_i h1
    have h4 : k - 24 < 8 := by omega
    have h5 : 24 + (k - 24) = k := by omega
    simp [h4, h5]

/-- The opcode map gives the operation with a code byte, and only it. -/
theorem ofByte_eq_some {b : BitVec 8} {o : Opcode} : Opcode.ofByte? b = some o ↔ o.byte = b := by
  constructor
  · intro h
    have := List.find?_some h
    simpa using this
  · intro h
    subst h
    cases o <;> decide

end Sys2Proof
end

