-- ==== Sys2Proof/Laws/PerInstr.lean ====
section
/-! SUPPORT. Facts about every instruction as syntax, one lemma per constructor. -/

namespace Sys2Proof.Laws.EncodeShape

/-- An instruction's words: as many as its format has (30_encoding.md R117), at least one and at most
nine, with the operation code of R118 in the low byte of the first. -/
def Statement (i : Instr) : Prop :=
  (encode i).length = i.len ∧ 1 ≤ i.len ∧ i.len ≤ 9
    ∧ byteOf 0 ((encode i).headD 0#32) = i.opcode.byte

/-- Lengths run from one to nine words. -/
theorem len_bounds (o : Opcode) : 1 ≤ o.len ∧ o.len ≤ 9 := by cases o <;> decide

theorem wrcmd (code : Byte) : Statement (.wrcmd code) :=
  ⟨rfl, (len_bounds _).1, (len_bounds _).2, byteOf_zero_header _ _ _⟩
theorem wrdata (byte : Byte) : Statement (.wrdata byte) :=
  ⟨rfl, (len_bounds _).1, (len_bounds _).2, byteOf_zero_header _ _ _⟩
theorem delay (n : Nat) : Statement (.delay n) := ⟨rfl, (len_bounds _).1, (len_bounds _).2, byteOf_zero_header _ _ _⟩
theorem csen : Statement .csen := ⟨rfl, (len_bounds _).1, (len_bounds _).2, byteOf_zero_header _ _ _⟩
theorem csdis : Statement .csdis := ⟨rfl, (len_bounds _).1, (len_bounds _).2, byteOf_zero_header _ _ _⟩
theorem preset : Statement .preset := ⟨rfl, (len_bounds _).1, (len_bounds _).2, byteOf_zero_header _ _ _⟩
theorem initseq : Statement .initseq := ⟨rfl, (len_bounds _).1, (len_bounds _).2, byteOf_zero_header _ _ _⟩
theorem setpin (pin : BitVec 8) (level : Bool) : Statement (.setpin pin level) :=
  ⟨rfl, (len_bounds _).1, (len_bounds _).2, byteOf_zero_header _ _ _⟩
theorem cancfg (cfg : BusConfig) : Statement (.cancfg cfg) :=
  ⟨rfl, (len_bounds _).1, (len_bounds _).2, byteOf_zero_header _ _ _⟩
theorem canrecv : Statement .canrecv := ⟨rfl, (len_bounds _).1, (len_bounds _).2, byteOf_zero_header _ _ _⟩
theorem canalrt : Statement .canalrt := ⟨rfl, (len_bounds _).1, (len_bounds _).2, byteOf_zero_header _ _ _⟩
theorem dpcfg (cfg : PlaneConfig) : Statement (.dpcfg cfg) :=
  ⟨rfl, (len_bounds _).1, (len_bounds _).2, byteOf_zero_header _ _ _⟩
theorem blset (req : Nat) : Statement (.blset req) := ⟨rfl, (len_bounds _).1, (len_bounds _).2, byteOf_zero_header _ _ _⟩
theorem bufalloc (vw vh bpp factor : Nat) : Statement (.bufalloc vw vh bpp factor) :=
  ⟨rfl, (len_bounds _).1, (len_bounds _).2, byteOf_zero_header _ _ _⟩
theorem flushreg (vw vh ox oy rot : Nat) : Statement (.flushreg vw vh ox oy rot) :=
  ⟨rfl, (len_bounds _).1, (len_bounds _).2, byteOf_zero_header _ _ _⟩
theorem flush (x1 y1 x2 y2 : Nat) (pixels : BitVec 32) : Statement (.flush x1 y1 x2 y2 pixels) :=
  ⟨rfl, (len_bounds _).1, (len_bounds _).2, byteOf_zero_header _ _ _⟩
theorem blit (xs xe ys ye : Nat) (pixels : BitVec 32) : Statement (.blit xs xe ys ye pixels) :=
  ⟨rfl, (len_bounds _).1, (len_bounds _).2, byteOf_zero_header _ _ _⟩

end Sys2Proof.Laws.EncodeShape
end

