-- ==== Sys2Proof/Laws/Step.lean ====
section
/-! SUPPORT. What one step of the machine can do, said once. -/

namespace Sys2Proof.Machine

/-- The draw of whose turn it is, or none. -/
theorem atTurn_cases (s : State) : atTurn s = s ∨ atTurn s = afterDraw s := afterChoice_cases _ s

/-- The state in which a step is taken differs from the given one in the draws alone. -/
theorem atTurn_only (s : State) :
    atTurn s = { s with draws := (atTurn s).draws, script := (atTurn s).script } := by
  rcases atTurn_cases s with h | h
  · rw [h]
  · rw [h]; rfl

@[simp] theorem atTurn_cfg (s : State) : (atTurn s).cfg = s.cfg := by rw [atTurn_only]
@[simp] theorem atTurn_desc (s : State) : (atTurn s).desc = s.desc := by rw [atTurn_only]
@[simp] theorem atTurn_pc (s : State) : (atTurn s).pc = s.pc := by rw [atTurn_only]
@[simp] theorem atTurn_res (s : State) : (atTurn s).res = s.res := by rw [atTurn_only]
@[simp] theorem atTurn_rval (s : State) : (atTurn s).rval = s.rval := by rw [atTurn_only]
@[simp] theorem atTurn_rframe (s : State) : (atTurn s).rframe = s.rframe := by rw [atTurn_only]
@[simp] theorem atTurn_fault (s : State) : (atTurn s).fault = s.fault := by rw [atTurn_only]
@[simp] theorem atTurn_qmark (s : State) : (atTurn s).qmark = s.qmark := by rw [atTurn_only]
@[simp] theorem atTurn_now (s : State) : (atTurn s).now = s.now := by rw [atTurn_only]
@[simp] theorem atTurn_seq (s : State) : (atTurn s).seq = s.seq := by rw [atTurn_only]
@[simp] theorem atTurn_can (s : State) : (atTurn s).can = s.can := by rw [atTurn_only]
@[simp] theorem atTurn_rgb (s : State) : (atTurn s).rgb = s.rgb := by rw [atTurn_only]
@[simp] theorem atTurn_blit (s : State) : (atTurn s).blit = s.blit := by rw [atTurn_only]
@[simp] theorem atTurn_mem (s : State) : (atTurn s).mem = s.mem := by rw [atTurn_only]
@[simp] theorem atTurn_diag (s : State) : (atTurn s).diag = s.diag := by rw [atTurn_only]

/-- A turn that is taken is an enabled one. -/
theorem nextTurn_mem {s : State} {t : Turn} (h : nextTurn s = some t) : t ∈ enabledTurns s := chosen_mem h

theorem host_mem_enabledTurns {s : State} : Turn.host ∈ enabledTurns s ↔ hostEnabled s = true := by
  unfold enabledTurns
  cases hostEnabled s <;> simp

theorem other_mem_enabledTurns {s : State} {a : AgentStep} :
    Turn.other a ∈ enabledTurns s ↔ a ∈ otherSteps s := by
  unfold enabledTurns
  cases hostEnabled s <;> simp

theorem mem_enabledTurns {s : State} {t : Turn} (h : t ∈ enabledTurns s) :
    (t = .host ∧ hostEnabled s = true) ∨ ∃ a, t = .other a ∧ a ∈ otherSteps s := by
  cases t with
  | host => exact .inl ⟨rfl, host_mem_enabledTurns.mp h⟩
  | other a => exact .inr ⟨a, rfl, other_mem_enabledTurns.mp h⟩

/-- With good parameters the step is that of the agent whose turn it is. -/
theorem step_eq_runTurn {s : State} {t : Turn} (hp : ParamsOk s.cfg) (h : nextTurn s = some t) :
    step s = runTurn t (atTurn s) := by
  unfold step machineStep
  rw [hp, h]

/-- A draw enables and disables no step of the other agents. -/
@[simp] theorem otherSteps_atTurn (s : State) : otherSteps (atTurn s) = otherSteps s :=
  otherSteps_afterChoice _ s

theorem hostEnabled_iff (s : State) :
    hostEnabled s = true ↔ s.fault = none ∧ s.qmark = none ∧ s.pc < s.desc.length := by
  simp [hostEnabled, and_assoc]

/-- Decoding never ends the program while PC is inside it. -/
theorem decode_ne_end {d : List Word} {pc : Nat} (h : pc < d.length) :
    decode d pc ≠ .endOfProgram := by
  unfold decode
  rw [List.getElem?_eq_getElem h]
  simp only
  split
  · simp
  · split
    · simp
    · split <;> simp

/-- A step that answers a next state is HOST's instruction, HOST's decode fault, or an enabled step of
CANENV or SCAN; the parameters have passed their checks. -/
theorem step_cases {s t : State} (h : step s = .next t) :
    ParamsOk s.cfg
      ∧ ((∃ i, s.fault = none ∧ s.qmark = none ∧ decode s.desc s.pc = .instr i
            ∧ exec i (atTurn s) = .next t)
        ∨ (∃ c info, s.fault = none ∧ s.qmark = none ∧ s.pc < s.desc.length
            ∧ t = raiseFault c info (atTurn s))
        ∨ ∃ a, a ∈ otherSteps s ∧ t = agentStep a (atTurn s)) := by
  unfold step machineStep at h
  split at h
  · cases h
  · rename_i hp
    refine ⟨hp, ?_⟩
    split at h
    · cases h
    · rename_i u hu
      rcases mem_enabledTurns (nextTurn_mem hu) with ⟨rfl, hh⟩ | ⟨a, rfl, ha⟩
      · obtain ⟨hf, hq, hpc⟩ := (hostEnabled_iff s).mp hh
        simp only [runTurn, hostStep, atTurn_desc, atTurn_pc] at h
        split at h
        · rename_i i hi
          exact .inl ⟨i, hf, hq, hi, h⟩
        · exact .inr (.inl ⟨_, _, hf, hq, hpc, by cases h; rfl⟩)
        · exact .inr (.inl ⟨_, _, hf, hq, hpc, by cases h; rfl⟩)
        · exact .inr (.inl ⟨_, _, hf, hq, hpc, by cases h; rfl⟩)
        · cases h
      · cases h
        exact .inr (.inr ⟨a, ha, rfl⟩)

/-- A step that is not HOST's is one the other agents can take. -/
theorem agentStep_atTurn_ran {s : State} {a : AgentStep} (h : a ∈ otherSteps s) :
    OthersRan s (agentStep a (atTurn s)) :=
  (afterChoice_ran _ s).trans (agentStep_ran (by simpa using h))

end Sys2Proof.Machine
end

