-- ==== Sys2Proof/Tests/Slice0.lean ====
section
/-! SUPPORT. Small tests: expected values are those of 95_test_vectors.md (the vector is named in each
docstring) or worked out by hand from the rule named. Below them, for each obligation with hypotheses, a
concrete state and operands that meet them. -/

namespace Sys2Proof.Machine

/-! ### Small states -/

/-- The configuration of 95_test_vectors.md, with the DMA-capable range of its vectors known. -/
def testCfg : Params := { Config.illustrative with dmaRegions := [(0x3FC90000, 0x30000)] }

/-- Right after reset, with the given draws fixed. -/
def fresh (sc : List Nat) : State := State.launch testCfg [] [] sc

/-- After PRESET at time 60, with chip-select enabled and settled at 70. -/
def talking (sc : List Nat) : State :=
  { fresh sc with
    now := 70
    seq :=
      { SeqState.reset with
        rstLevel := .hi, csLevel := .lo, csHeld := true, panelReadyAt := some 70, settleUntil := 70
        quietUntil := 70 } }

/-- After PRESET, at time 60, as V-S1 leaves it. -/
def released (sc : List Nat) : State :=
  { fresh sc with now := 60, seq := { SeqState.reset with rstLevel := .hi, panelReadyAt := some 60 } }

/-- CAN running with a queue of depth 2, alerts enabled. -/
def onBus (q : List Frame) (status : BitVec 3) : State :=
  { fresh [] with
    cfg := { testCfg with acceptTable := [((0#32, ⟨1⟩), true), ((0#32, ⟨2⟩), false)] }
    can :=
      { CanState.reset with
        phase := .running, tried := true, rxqDepth := 2#16, alertEn := 7#3, alertStatus := status
        rxq := q } }

/-- The data plane running on a 4 by 3 panel, with the given system memory. -/
def painting (m : Memory) (sc : List Nat) : State :=
  { fresh sc with
    cfg := { testCfg with panelW := 4, panelH := 3 }
    mem := m
    seq := { SeqState.reset with seqDone := true }
    rgb :=
      { RgbState.reset with
        hRes := 4#16, vRes := 3#16, fbCount := 1#8, phase := .running, fb := [⟨24, []⟩] } }

/-- The graphics side ready to flush: buffers of eight bytes at 32 and 64, offset (1, 1). -/
def flushing (m : Memory) (sc : List Nat) : State :=
  { painting m sc with
    blit :=
      { BlitState.reset with
        allocState := .ok, buf1 := 32#32, buf2 := 64#32, bufSize := 8, allocVw := 2, allocVh := 2
        flushRegistered := true, regCount := 1, virtW := 2#16, virtH := 2#16, offX := 1#16
        offY := 1#16 } }

/-- The next state of an outcome. -/
def next? (o : Host.Outcome State Fault Refusal) : Option State :=
  match o with
  | .next t => some t
  | .fault _ => none
  | .refused _ => none

/-- One field of the next state. -/
def got {α : Type} (f : State → α) (o : Host.Outcome State Fault Refusal) : Option α := (next? o).map f

/-! ### Well-formedness: an ill-formed term for each check -/

theorem test_wf_delay : (Instr.delay 65536).wf = false ∧ (Instr.delay 65535).wf = true := by decide
theorem test_wf_blset : (Instr.blset 65536).wf = false ∧ (Instr.blset 65535).wf = true := by decide
theorem test_wf_cancfg :
    (Instr.cancfg { Config.exampleBus with rxqDepth := 65536 }).wf = false
      ∧ (Instr.cancfg { Config.exampleBus with txqDepth := 65536 }).wf = false
      ∧ (Instr.cancfg Config.exampleBus).wf = true := by decide
theorem test_wf_dpcfg_timing :
    (Instr.dpcfg { Config.examplePlane with hsyncPw := 65536 }).wf = false
      ∧ (Instr.dpcfg { Config.examplePlane with hbp := 65536 }).wf = false
      ∧ (Instr.dpcfg { Config.examplePlane with hfp := 65536 }).wf = false
      ∧ (Instr.dpcfg { Config.examplePlane with vsyncPw := 65536 }).wf = false
      ∧ (Instr.dpcfg { Config.examplePlane with vbp := 65536 }).wf = false
      ∧ (Instr.dpcfg { Config.examplePlane with vfp := 65536 }).wf = false
      ∧ (Instr.dpcfg Config.examplePlane).wf = true := by decide
theorem test_wf_dpcfg_rest :
    (Instr.dpcfg { Config.examplePlane with hRes := 65536 }).wf = false
      ∧ (Instr.dpcfg { Config.examplePlane with vRes := 65536 }).wf = false
      ∧ (Instr.dpcfg { Config.examplePlane with pclkHz := 4294967296 }).wf = false
      ∧ (Instr.dpcfg { Config.examplePlane with dataWidth := 256 }).wf = false
      ∧ (Instr.dpcfg { Config.examplePlane with bpp := 256 }).wf = false
      ∧ (Instr.dpcfg { Config.examplePlane with fbCount := 256 }).wf = false
      ∧ (Instr.dpcfg { Config.examplePlane with bouncePx := 4294967296 }).wf = false := by decide
theorem test_wf_bufalloc :
    (Instr.bufalloc 65536 0 0 0).wf = false ∧ (Instr.bufalloc 0 65536 0 0).wf = false
      ∧ (Instr.bufalloc 0 0 256 0).wf = false ∧ (Instr.bufalloc 0 0 0 256).wf = false := by decide
theorem test_wf_flushreg :
    (Instr.flushreg 65536 0 0 0 0).wf = false ∧ (Instr.flushreg 0 65536 0 0 0).wf = false
      ∧ (Instr.flushreg 0 0 65536 0 0).wf = false ∧ (Instr.flushreg 0 0 0 65536 0).wf = false
      ∧ (Instr.flushreg 0 0 0 0 4).wf = false ∧ (Instr.flushreg 0 0 0 0 3).wf = true := by decide
theorem test_wf_flush :
    (Instr.flush 65536 0 0 0 0#32).wf = false ∧ (Instr.flush 0 65536 0 0 0#32).wf = false
      ∧ (Instr.flush 0 0 65536 0 0#32).wf = false ∧ (Instr.flush 0 0 0 65536 0#32).wf = false := by
  decide
theorem test_wf_blit :
    (Instr.blit 65536 0 0 0 0#32).wf = false ∧ (Instr.blit 0 65536 0 0 0#32).wf = false
      ∧ (Instr.blit 0 0 65536 0 0#32).wf = false ∧ (Instr.blit 0 0 0 65536 0#32).wf = false := by
  decide

/-! ### Decoding: words written out from the spec (95_test_vectors.md 2.1) -/

/-- V-E1 to V-E7. -/
theorem test_decode_seq :
    decode [0x00001101#32] 0 = .instr (.wrcmd 0x11#8)
      ∧ decode [0x00000802#32] 0 = .instr (.wrdata 0x08#8)
      ∧ decode [0x00780003#32] 0 = .instr (.delay 120)
      ∧ decode [0x00000003#32] 0 = .instr (.delay 0)
      ∧ decode [0x00000004#32] 0 = .instr .csen
      ∧ decode [0x00000005#32] 0 = .instr .csdis
      ∧ decode [0x00000006#32] 0 = .instr .preset
      ∧ decode [0x00000007#32] 0 = .instr .initseq
      ∧ decode [0x00010308#32] 0 = .instr (.setpin 3#8 true)
      ∧ decode [0x00000208#32] 0 = .instr (.setpin 2#8 false) := by decide
/-- V-E9, V-E10. -/
theorem test_decode_can :
    decode [0x00000011#32] 0 = .instr .canrecv
      ∧ decode [0x00000012#32] 0 = .instr .canalrt
      ∧ decode [0x00000010#32, 0x07000605#32, 0x00050040#32, 0#32, 0#32] 0
        = .instr (.cancfg ⟨5#8, 6#8, 0#8, 7#3, 64, 5, 0#32, 0#32⟩) := by decide
/-- CANCFG from R119: each field with its own value. -/
theorem test_decode_cancfg_fields :
    decode [0x00000010#32, 0x04332211#32, 0x77665544#32, 0x89ABCDEF#32, 0x01234567#32] 0
      = .instr (.cancfg ⟨0x11#8, 0x22#8, 0x33#8, 4#3, 0x5544, 0x7766, 0x89ABCDEF#32, 0x01234567#32⟩) := by
  decide
/-- V-E8, and the DPCFG words of program P2. -/
theorem test_decode_rgb :
    decode [0x00320021#32] 0 = .instr (.blset 50)
      ∧ decode
          [0x00000020#32, 0x00140008#32, 0x00080014#32, 0x00140014#32, 0x01E003C0#32, 0x00F42400#32,
           0x01101000#32, 0x00000000#32, 0x00000001#32] 0
        = .instr (.dpcfg Config.examplePlane) := by decide
/-- DPCFG from R120: each field with its own value. -/
theorem test_decode_dpcfg_fields :
    decode
        [0x00000020#32, 0x00020001#32, 0x00040003#32, 0x00060005#32, 0x00080007#32, 0x00000009#32,
         0x0D0C0B0A#32, 0x0000000E#32, 0x00000001#32] 0
      = .instr (.dpcfg ⟨1, 2, 3, 4, 5, 6, 7, 8, 9, 10#8, 11, 12, 13, 14, true⟩) := by decide
/-- V-E11 to V-E14, V-E24. -/
theorem test_decode_blit :
    decode [0x00000030#32, 0x03C000F0#32, 0x00000502#32] 0 = .instr (.bufalloc 240 960 2 5)
      ∧ decode [0x00000031#32, 0x03C000F0#32, 0x001A0278#32, 0x00000000#32] 0
        = .instr (.flushreg 240 960 632 26 0)
      ∧ decode [0x00000032#32, 0x00000000#32, 0x000A000A#32, 0x3FC90000#32] 0
        = .instr (.flush 0 0 10 10 0x3FC90000#32)
      ∧ decode [0x00000033#32, 0x02820278#32, 0x0024001A#32, 0x3FC90000#32] 0
        = .instr (.blit 632 642 26 36 0x3FC90000#32)
      ∧ decode [0x00000031#32, 0x03C000F0#32, 0x001A0278#32, 0x00000001#32] 0
        = .instr (.flushreg 240 960 632 26 1) := by decide
/-- V-E15 to V-E17. -/
theorem test_decode_illegal :
    decode [0x00000000#32] 0 = .illegalOp 0#32 ∧ decode [0x000000FF#32] 0 = .illegalOp 0xFF#32
      ∧ decode [0x00000009#32] 0 = .illegalOp 9#32 := by decide
/-- V-E18 to V-E23. -/
theorem test_decode_reserved :
    decode [0x00000104#32] 0 = .reservedField 0 ∧ decode [0x00011101#32] 0 = .reservedField 0
      ∧ decode [0x00020308#32] 0 = .reservedField 0 ∧ decode [0x00780103#32] 0 = .reservedField 0
      ∧ decode [0x00000010#32, 0x0F000605#32, 0x00050040#32, 0#32, 0#32] 0 = .reservedField 1
      ∧ decode [0x00000031#32, 0x03C000F0#32, 0x001A0278#32, 0x00000004#32] 0 = .reservedField 3 := by
  decide
/-- V-E25 to V-E27. -/
theorem test_decode_truncated :
    decode [0x00000030#32, 0x03C000F0#32] 0 = .truncated 0
      ∧ decode [0x00000104#32, 0x00000030#32] 0 = .reservedField 0
      ∧ decode [] 0 = .endOfProgram := by decide
/-- The must-be-0 bits of BUFALLOC's W2 and DPCFG's W8 (R121, R120); the first again at PC 1, where its
number is still 2 (the model's choice, log 30). -/
theorem test_decode_reserved_operands :
    decode [0x00000030#32, 0#32, 0x00010000#32] 0 = .reservedField 2
      ∧ decode [0x20#32, 0#32, 0#32, 0#32, 0#32, 0#32, 0#32, 0#32, 2#32] 0 = .reservedField 8
      ∧ decode [0x00000004#32, 0x00000030#32, 0#32, 0x00010000#32] 1 = .reservedField 2 := by
  decide
/-- The table's numbering (first word in bits 31..0): V-E14 as one number, and V-E10's header alone. -/
theorem test_table_word :
    decodeTableWord 128 0x3FC900000024001A0282027800000033 = some (.blit 632 642 26 36 0x3FC90000#32)
      ∧ decodeTableWord 32 0x00000010 = some (.cancfg ⟨0#8, 0#8, 0#8, 0#3, 0, 0, 0#32, 0#32⟩)
      ∧ decodeTableWord 32 0x00000104 = none := by decide
/-- V-E1, V-E2: the wire words. -/
theorem test_bus_words :
    busWord .command 0x11#8 = 0x011#9 ∧ busWord .data 0x08#8 = 0x108#9
      ∧ wireBits 0x108#9 = [true, false, false, false, false, true, false, false, false] := by decide

/-! ### Single steps -/

/-- V-S7's first word: at 70 with a transfer time of 0, 0x11 owes 120. -/
theorem test_wrcmd_owes :
    got (fun t => (t.seq.log, t.seq.quietUntil, t.pc)) (exec (.wrcmd 0x11#8) (talking [0]))
      = some ([.word 70 .command 0x11#8 true], 190, 1) := by decide
/-- V-S4, seen drawn true. -/
theorem test_wrcmd_undriven :
    got (fun t => (t.fault, t.pc)) (exec (.wrcmd 0x11#8) (fresh [1]))
      = some (some ⟨.panelNotReady, 0, 0⟩, 0) := by decide
/-- V-S8's data word, inside the command delay. -/
theorem test_wrdata_not_held_back :
    got (fun t => (t.fault, t.seq.quietUntil))
        (exec (.wrdata 0#8)
          { talking [0] with seq := { (talking []).seq with quietUntil := 190, curReq := 120 } })
      = some (none, 190) := by decide
/-- V-S6: the settle time not over. -/
theorem test_wrcmd_settling :
    got (fun t => t.fault)
        (exec (.wrcmd 0x29#8) { talking [0] with seq := { (talking []).seq with settleUntil := 80 } })
      = some (some ⟨.delayHazard, 0, 10⟩) := by decide
/-- R152 with a draw of 3 over the minimum. -/
theorem test_delay :
    got (fun t => (t.now, t.seq.log)) (exec (.delay 120) (fresh [3]))
      = some (123, [.delay 0 120 123]) := by decide
/-- R185, R287: a wait of exactly 5 in which one CAN frame arrives: the draws are the extra time, one
step, CAN_RX of the three enabled ones, and the frame. -/
theorem test_frame_during_delay :
    got (fun t => (t.now, t.can.rxq, t.pc)) (exec (.delay 5) { onBus [] 0#3 with script := [0, 1, 0, 1] })
      = some (5, [⟨1⟩], 1) := by decide
/-- R185, R164: a bus error during a transfer of 4 time-units that the panel does not see. -/
theorem test_bus_error_during_transfer :
    got (fun t => (t.now, t.can.alertStatus, t.seq.busy))
        (exec (.wrcmd 0#8)
          { onBus [] 0#3 with seq := { SeqState.reset with csLevel := .hi }, script := [4, 1, 1] })
      = some (4, 2#3, false) := by decide
/-- R11: two bus events between the sub-steps of one CSEN, one before its wait and one in it. -/
theorem test_bus_events_during_csen :
    got (fun t => (t.seq.csHeld, t.can.alertStatus))
        (exec .csen { onBus [] 0#3 with script := [1, 1, 0, 1, 2, 0] }) = some (true, 6#3) := by decide
/-- The first line of V-S2. -/
theorem test_csen :
    got (fun t => (t.now, t.seq.csHeld, t.seq.csLevel, t.seq.log)) (exec .csen (fresh [0]))
      = some (10, true, .lo, [.edge 0 3#8 false, .delay 0 10 10]) := by decide
/-- V-S12. -/
theorem test_csdis_unpaired :
    got (fun t => t.fault) (exec .csdis (fresh [])) = some (some ⟨.csPairing, 0, 0⟩) := by decide
theorem test_csdis :
    got (fun t => (t.now, t.seq.csHeld, t.seq.csLevel, t.seq.settleUntil)) (exec .csdis (talking [2]))
      = some (82, false, .hi, 80) := by decide
/-- V-S1. -/
theorem test_preset :
    got (fun t => (t.now, t.seq.rstLevel, t.seq.panelReadyAt, t.seq.log)) (exec .preset (fresh [0, 0]))
      = some (60, .hi, some 60,
          [.edge 0 2#8 false, .delay 0 10 10, .edge 10 2#8 true, .delay 10 50 50]) := by decide
/-- V-S9 from its sixth line on. -/
theorem test_initseq :
    got (fun t => (t.now, wordsOf t.seq.log, t.seq.quietUntil, t.seq.curReq, t.seq.seqDone))
        (exec .initseq (released [0, 0, 0, 0, 0, 0, 0, 0, 0]))
      = some (230, [(.command, 0x11#8), (.command, 0xC1#8), (.data, 0x08#8), (.command, 0x29#8)], 220,
          20, true) := by decide
/-- V-S10. -/
theorem test_initseq_not_ready :
    got (fun t => (t.fault, t.seq.csHeld, t.seq.inInitseq)) (exec .initseq (fresh [0]))
        = some (some ⟨.panelNotReady, 0, 10⟩, true, true)
      ∧ got (fun t => (wordsOf t.seq.log, t.pc)) (exec .initseq (fresh [0])) = some ([], 0) := by decide
/-- V-S5's second edge: the pulse took 5. -/
theorem test_setpin_short_pulse :
    got (fun t => (t.seq.panelReadyAt, t.seq.rstLevel))
        (exec (.setpin 2#8 true)
          { fresh [] with
            now := 5, seq := { SeqState.reset with rstLevel := .lo, rstLowAt := some 0 } })
      = some (none, .hi) := by decide
/-- V-S13. -/
theorem test_setpin_other :
    got (fun t => (t.seq.log, t.seq.csLevel, t.seq.rstLevel)) (exec (.setpin 7#8 true) (fresh []))
      = some ([.edge 0 7#8 true], .x, .x) := by decide
/-- V-C1. -/
theorem test_cancfg :
    got (fun t => (t.can.phase, t.can.rxqDepth, t.can.txqDepth, t.can.alertEn, t.res, t.pc))
        (exec (.cancfg Config.exampleBus) (fresh [1, 1]))
      = some (.running, 64#16, 5#16, 7#3, 0#8, 5) := by decide
/-- V-C3. -/
theorem test_cancfg_start_fails :
    got (fun t => (t.can.phase, t.can.rxqDepth, t.res, t.diag))
        (exec (.cancfg Config.exampleBus) (fresh [1, 0]))
      = some (.installed, 64#16, 2#8, [.startFailed]) := by decide
/-- V-C9's first CANRECV. -/
theorem test_canrecv :
    got (fun t => (t.rframe, t.res, t.can.rxq)) (exec .canrecv (onBus [⟨1⟩, ⟨2⟩] 0#3))
      = some (some ⟨1⟩, 0#8, [⟨2⟩]) := by decide
/-- V-C9's third. -/
theorem test_canrecv_empty :
    got (fun t => (t.rframe, t.res)) (exec .canrecv (onBus [] 0#3)) = some (none, 5#8) := by decide
/-- V-C8. -/
theorem test_canalrt :
    got (fun t => (t.rval, t.can.alertStatus, canIrq t, t.res)) (exec .canalrt (onBus [] 6#3))
      = some (6#32, 0#3, false, 0#8) := by decide
/-- V-C8's two events. -/
theorem test_bus_events :
    (canStep .errPass (canStep .busErr (onBus [] 0#3))).can.alertStatus = 6#3 := by decide
/-- V-R3. -/
theorem test_dpcfg_fails :
    got (fun t => (t.res, t.rgb.phase, t.diag))
        (exec (.dpcfg Config.examplePlane)
          { fresh [0] with seq := { SeqState.reset with seqDone := true } })
      = some (4#8, .failed, [.handleCreationFailed]) := by decide
/-- P2's DPCFG; then SCAN, enabled by it, takes no step. -/
theorem test_dpcfg :
    got (fun t => (t.res, t.rgb.phase, t.rgb.fb, t.rgb.hRes, t.rgb.vfp))
        (exec (.dpcfg Config.examplePlane)
          { fresh [1, 0] with seq := { SeqState.reset with seqDone := true } })
      = some (0#8, .running, [⟨921600, []⟩], 960#16, 20#16) := by decide
/-- V-R4. -/
theorem test_blset :
    [0, 1, 50, 99, 100, 150, 65535].map (backlightDuty testCfg) = [0, 2, 127, 252, 255, 255, 255] := by
  decide
theorem test_blset_step :
    got (fun t => (t.rgb.blDuty, t.rgb.blSet)) (exec (.blset 50) (painting [] [])) = some (127, true) := by
  decide
/-- V-A1. -/
theorem test_bufalloc :
    got (fun t => (t.blit.bufSize, t.blit.buf2, t.blit.allocState, t.res))
        (exec (.bufalloc 240 960 2 5) (fresh [0x3FC90000, 0x3FCA6800]))
      = some (92160, 0x3FCA6800#32, .ok, 0#8) := by decide
/-- A null: R244. -/
theorem test_bufalloc_null :
    got (fun t => (t.blit.gfxAborted, t.blit.allocState, t.res, t.diag))
        (exec (.bufalloc 240 960 2 5) (fresh [0, 0x3FCA6800]))
      = some (true, .failed, 3#8, [.allocationFailed]) := by decide
/-- V-F1, the fourth row, on the canvas of `flushing`. -/
theorem test_flushreg :
    got (fun t => (t.blit.flushRegistered, t.blit.regCount, t.blit.offX, t.blit.offY))
        (exec (.flushreg 2 2 632 26 0)
          { fresh [] with blit := { BlitState.reset with allocState := .ok, allocVw := 2, allocVh := 2 } })
      = some (true, 1, 632#16, 26#16) := by decide
/-- V-F1, the second row. -/
theorem test_flushreg_rotation :
    got (fun t => (t.qmark, t.fault)) (exec (.flushreg 240 960 632 26 2) (fresh []))
      = some (some .rotation, none) := by decide
/-- V-B7's shape on a panel of width 4: two rows of two pixels, the source stride 2 (CLAMPED); the
writes drawn last to first. Row 1's first pixel comes from address 20. -/
theorem test_blit_clamped_stride :
    got (fun t => (t.rgb.fb, t.blit.blitCalls))
        (exec (.blit 2 5 0 1 16#32)
          (painting [(16, 1#8), (17, 2#8), (18, 3#8), (19, 4#8), (20, 5#8), (21, 6#8), (22, 7#8), (23, 8#8)]
            [7, 0, 6, 0, 5, 0, 4, 0, 3, 0, 2, 0, 1, 0, 0, 0]))
      = some ([⟨24, [(4, 1#8), (5, 2#8), (6, 3#8), (7, 4#8), (12, 5#8), (13, 6#8), (14, 7#8), (15, 8#8)]⟩],
          1) := by decide
/-- V-B9: the second pixel's first byte unwritten. -/
theorem test_blit_unwritten :
    got (fun t => (t.fault, t.rgb.fb, t.blit.blitCalls))
        (exec (.blit 0 1 0 0 16#32) (painting [(16, 1#8), (17, 2#8), (19, 4#8)] []))
      = some (some ⟨.unwrittenRead, 0, 18⟩, [⟨24, []⟩], 0) := by decide
/-- V-FL1's shape: one pixel at (0, 0), offset (1, 1), to pixel (1, 1) of a row of 4. The
draws: which byte and how many SCAN steps, twice; then how many before the completion. -/
theorem test_flush :
    got (fun t => (t.rgb.fb, t.blit.completions, t.blit.flushLog))
        (exec (.flush 0 0 0 0 32#32) (flushing [(32, 9#8), (33, 8#8)] [0, 0, 0, 0, 0]))
      = some ([⟨24, [(10, 9#8), (11, 8#8)]⟩], 1, [(⟨1, 1, 1, 1⟩, 1)]) := by decide
/-- V-FL5. -/
theorem test_flush_bad_pixels :
    got (fun t => (t.fault, t.blit.completions)) (exec (.flush 0 0 0 0 0x20000000#32) (flushing [] []))
      = some (some ⟨.badPixels, 0, 0⟩, 0) := by decide
/-- V-R6 on one byte: written 0x07 while the frame is open, so 0x07 or anything. -/
theorem test_scan_tearing :
    seenAt (fbWrite 0 0 7#8 (frameBegin (painting [] [])).rgb).scanSeen 0 = [none, some 7#8]
      ∧ seenAt (fbWrite 0 0 7#8 (frameBegin (painting [] [])).rgb).scanSeen 1 = [none] := by decide

/-- From reset with nothing placed, the program is at its end (log 21); a placed word is the next step. -/
theorem test_reset_step :
    step State.reset = .fault .endOfProgram
      ∧ got (fun t => t.seq.log) (step (State.reset.withFetchWord 32 0x00010708))
        = some [.edge 0 7#8 true] := ⟨rfl, by decide⟩

/-! ### The hypotheses of each obligation can be met -/

/-- A program in descriptor memory, right after reset. -/
def loaded (d : List Word) : State := State.launch testCfg d [] []

/-- Nine draws of 0: one INITSEQ at minimal draws. -/
def zeros : List Nat := [0, 0, 0, 0, 0, 0, 0, 0, 0]

theorem test_testCfg_ok : ParamsOk testCfg := rfl
theorem test_pins : PinsDiffer testCfg := by unfold PinsDiffer; decide

theorem test_hyp_DecodeOfEncode : (Instr.flushreg 65535 0 65535 0 3).wf = true := by decide
theorem test_hyp_EncodeOfDecoded : decode [0#32, 0x00780003#32] 1 = .instr (.delay 120) := by decide

theorem test_hyp_IllegalOpcode :
    ParamsOk (loaded [0xFF#32]).cfg ∧ nextTurn (loaded [0xFF#32]) = some .host
      ∧ (loaded [0xFF#32]).desc[(loaded [0xFF#32]).pc]? = some 0xFF#32
      ∧ ∀ o : Opcode, o.byte ≠ (0xFF#32).extractLsb' 0 8 :=
  ⟨rfl, by decide, rfl, by intro o; cases o <;> decide⟩

/-- The descriptor is short by one word. -/
theorem test_hyp_Truncated :
    ParamsOk (loaded [0x30#32, 0#32]).cfg ∧ nextTurn (loaded [0x30#32, 0#32]) = some .host
      ∧ (loaded [0x30#32, 0#32]).desc[(loaded [0x30#32, 0#32]).pc]? = some 0x30#32
      ∧ Opcode.bufalloc.byte = (0x30#32).extractLsb' 0 8
      ∧ (loaded [0x30#32, 0#32]).desc.length < (loaded [0x30#32, 0#32]).pc + Opcode.bufalloc.len :=
  ⟨rfl, by decide, rfl, by decide, by decide⟩

/-- A must-be-0 bit of the header of a one-word descriptor, and one of the last word of four. -/
theorem test_hyp_ReservedBit :
    nextTurn (loaded [0x104#32]) = some .host
      ∧ Opcode.csen.byte = (0x104#32).extractLsb' 0 8
      ∧ (loaded [0x104#32]).pc + Opcode.csen.len ≤ (loaded [0x104#32]).desc.length
      ∧ Opcode.csen.masks.getD 0 0#32 &&& (loaded [0x104#32]).desc.getD 0 0#32 ≠ 0#32
      ∧ nextTurn (loaded [0x31#32, 0#32, 0#32, 4#32]) = some .host
      ∧ Opcode.flushreg.byte = (0x31#32).extractLsb' 0 8 ∧ 3 < Opcode.flushreg.len
      ∧ Opcode.flushreg.masks.getD 3 0#32
          &&& (loaded [0x31#32, 0#32, 0#32, 4#32]).desc.getD 3 0#32 ≠ 0#32 := by decide

/-- With no choice of agent, and with a choice that the draw gives to HOST; HOST's turn is not enabled at
the end of the program. -/
theorem test_hyp_StepRunsDecoded :
    (loaded [6#32]).fault = none ∧ (loaded [6#32]).qmark = none
      ∧ (loaded [6#32]).pc < (loaded [6#32]).desc.length ∧ (loaded [6#32]).can.phase ≠ .running
      ∧ (loaded [6#32]).rgb.phase ≠ .running ∧ (loaded [6#32]).rgb.scanOpen = false
      ∧ Turn.host ∉ enabledTurns (loaded []) ∧ Turn.other .scan ∈ enabledTurns (painting [] [])
      ∧ ParamsOk (loaded [6#32]).cfg ∧ nextTurn (loaded [6#32]) = some .host
      ∧ decode (loaded [6#32]).desc (loaded [6#32]).pc = .instr .preset
      ∧ nextTurn { onBus [] 0#3 with desc := [6#32], script := [4] } = some .host :=
  ⟨rfl, rfl, by decide, by decide, by decide, rfl, by decide, by decide, rfl, by decide, by decide, by decide⟩

theorem test_hyp_WordSent :
    (talking []).seq.csLevel = .lo ∧ (talking []).seq.panelReadyAt = some 70 ∧ 70 ≤ (talking []).now
      ∧ (talking []).seq.settleUntil ≤ (talking []).now
      ∧ (talking []).seq.quietUntil ≤ (talking []).now := by decide

theorem test_hyp_WordUnseen :
    ({ released [] with seq := { (released []).seq with csLevel := .hi } } : State).seq.csLevel = .hi :=
  rfl

/-- Both draws; the word then goes out, or the panel is not ready: a next state either way. -/
theorem test_hyp_Undriven :
    (fresh [1]).seq.csLevel = .x ∧ Level.lo = (if drawVal (fresh [1]) % 2 = 1 then .lo else .hi)
      ∧ Level.hi = (if drawVal (fresh [0]) % 2 = 1 then .lo else .hi)
      ∧ ∀ (b : Byte) (s : State), (∃ u, exec (.wrcmd b) s = .next u) ∧ ∃ u, exec (.wrdata b) s = .next u :=
  ⟨rfl, by decide, by decide, fun _ _ => ⟨exec_answers_next _ _, exec_answers_next _ _⟩⟩

/-- Never released, and one time-unit too early. -/
theorem test_hyp_NotReady :
    ({ fresh [] with seq := { SeqState.reset with csLevel := .lo } } : State).seq.panelReadyAt = none
      ∧ ({ talking [] with now := 69 } : State).seq.panelReadyAt = some 70
      ∧ ({ talking [] with now := 69 } : State).now < 70 := by decide

/-- One time-unit inside the settle time; one inside the owed delay with the settle time just over. -/
theorem test_hyp_EarlyWord :
    ({ talking [] with seq := { (talking []).seq with settleUntil := 71 } } : State).now < 71
      ∧ (talking []).seq.settleUntil ≤ (talking []).now
      ∧ ({ talking [] with seq := { (talking []).seq with quietUntil := 71 } } : State).now < 71 := by
  decide

/-- The five cases of SETPIN, a low time of exactly 10 among them. -/
theorem test_hyp_Setpin :
    PinsDiffer (fresh []).cfg ∧ 3#8 = (fresh []).cfg.csPin ∧ 2#8 = (fresh []).cfg.rstPin
      ∧ (fresh []).seq.rstLowAt = none
      ∧ ({ fresh [] with now := 10, seq := { SeqState.reset with rstLowAt := some 0 } } : State).seq.rstLowAt
        = some 0
      ∧ 7#8 ≠ (fresh []).cfg.csPin ∧ 7#8 ≠ (fresh []).cfg.rstPin :=
  ⟨test_pins, by decide, by decide, by decide, by decide, by decide, by decide⟩

/-- The least wait and one time-unit more; CAN running. -/
theorem test_hyp_Delay : 5 ≤ 5 ∧ 5 ≤ 5 + 1 ∧ (onBus [] 0#3).can.phase = .running := by decide

theorem test_hyp_Bracket :
    PinsDiffer (fresh []).cfg ∧ (fresh []).seq.csHeld = false ∧ PinsDiffer (talking []).cfg
      ∧ (talking []).seq.csHeld = true := ⟨test_pins, rfl, test_pins, rfl⟩

/-- Reset not low, and driven low just now. -/
theorem test_hyp_Preset :
    PinsDiffer (fresh []).cfg ∧ (∀ a, (fresh []).seq.rstLowAt = some a → a ≤ (fresh []).now)
      ∧ ∀ a, ({ fresh [] with
            now := 5, seq := { SeqState.reset with rstLevel := .lo, rstLowAt := some 5 } } : State).seq.rstLowAt
          = some a → a ≤ 5 :=
  ⟨test_pins, (by intro a h; cases h), (by intro a h; cases h; exact le_refl 5)⟩

/-- The panel ready, and the last command's delay over, just when CSEN's settle time is. -/
theorem test_hyp_InitseqReplays :
    let s : State :=
      { fresh [] with seq := { SeqState.reset with panelReadyAt := some 10, quietUntil := 10 } }
    PinsDiffer s.cfg ∧ s.seq.csHeld = false ∧ s.seq.panelReadyAt = some 10 ∧ 10 ≤ s.now + 10
      ∧ s.seq.quietUntil ≤ s.now + 10
      ∧ (∀ e ∈ s.cfg.transcript, max (reqDelayOf s.cfg e.cmd) (roleMin e.role) ≤ e.postDelay)
      ∧ s.cfg.transcript = s.cfg.transcript.dropLast ++ [⟨0x29#8, [], 20, .displayOn⟩]
      ∧ 0 < 20 :=
  ⟨test_pins, rfl, rfl, by decide, by decide, by decide, by decide, by decide⟩

/-- PRESET, then INITSEQ, then INITSEQ again (V-S11). -/
theorem test_hyp_InitseqCompletes :
    ∃ t u v, exec .preset (fresh (0 :: 0 :: (zeros ++ zeros))) = .next t ∧ InitseqCompletes t u
      ∧ InitseqCompletes u v ∧ PinsDiffer (fresh []).cfg ∧ transcriptOk (fresh []).cfg = true :=
  ⟨_, _, _, rfl, ⟨rfl, rfl, rfl⟩, ⟨rfl, rfl, rfl⟩, test_pins, by decide⟩

/-- A transcript with a separate mid-sequence entry. -/
theorem test_hyp_InitseqMid :
    let p : Params :=
      { testCfg with transcript := ⟨0xFF#8, [], 10, .midDelay⟩ :: Config.exampleTranscript }
    transcriptOk p = true ∧ PinsDiffer p ∧ (∃ e ∈ p.transcript, e.role = .midDelay)
      ∧ ∃ t u, exec .preset { fresh (0 :: 0 :: 0 :: 0 :: zeros) with cfg := p } = .next t
        ∧ InitseqCompletes t u :=
  ⟨by decide, test_pins, ⟨_, List.mem_cons_self, rfl⟩, _, _, rfl, ⟨rfl, rfl, rfl⟩⟩

/-- Chip-select held; no panel reset and a transcript. -/
theorem test_hyp_InitseqFaults :
    (talking []).seq.csHeld = true ∧ PinsDiffer (fresh []).cfg ∧ (fresh []).cfg.transcript ≠ []
      ∧ (fresh []).seq.csHeld = false ∧ (fresh []).seq.panelReadyAt = none :=
  ⟨rfl, test_pins, by decide, rfl, rfl⟩

/-- The three outcomes' draws, with a depth of 1. -/
theorem test_hyp_Cancfg :
    (fresh []).can.tried = false ∧ ({ Config.exampleBus with rxqDepth := 1 } : BusConfig).rxqDepth ≠ 0
      ∧ drawVal (fresh [0]) % 2 ≠ 1
      ∧ drawVal (fresh [1, 0]) % 2 = 1 ∧ drawVal (afterDraw (fresh [1, 0])) % 2 ≠ 1
      ∧ drawVal (fresh [1, 1]) % 2 = 1 ∧ drawVal (afterDraw (fresh [1, 1])) % 2 = 1 := by decide

theorem test_hyp_Canrecv :
    (onBus [⟨1⟩] 0#3).can.phase ≠ .uninstalled ∧ (onBus [⟨1⟩] 0#3).can.rxq = [⟨1⟩]
      ∧ (fresh []).can.phase = .uninstalled ∧ (onBus [] 0#3).can.rxq = [] := by decide

/-- Enabled; not accepted; accepted with one place left; accepted with none left. -/
theorem test_hyp_CanRx :
    Turn.other .canRx ∈ enabledTurns (onBus [] 0#3)
      ∧ nextTurn { onBus [] 0#3 with script := [0] } = some (.other .canRx)
      ∧ accepts (onBus [] 0#3).cfg (onBus [] 0#3).can.filter ⟨2⟩ = false
      ∧ accepts (onBus [] 0#3).cfg (onBus [] 0#3).can.filter ⟨1⟩ = true
      ∧ (onBus [⟨1⟩] 0#3).can.rxq.length < (onBus [⟨1⟩] 0#3).can.rxqDepth.toNat
      ∧ (onBus [⟨1⟩, ⟨1⟩] 0#3).can.rxqDepth.toNat ≤ (onBus [⟨1⟩, ⟨1⟩] 0#3).can.rxq.length := by decide

/-- Exactly 64 frames, and 65. -/
theorem test_hyp_Queue64 :
    let s : State := { onBus [] 0#3 with can := { (onBus [] 0#3).can with rxqDepth := 64#16 } }
    s.can.rxqDepth = 64#16 ∧ s.can.rxq = [] ∧ s.can.dropped = 0
      ∧ (∀ f ∈ List.replicate 65 (⟨1⟩ : Frame), accepts s.cfg s.can.filter f = true)
      ∧ (List.replicate 64 (⟨1⟩ : Frame)).length ≤ 64 ∧ 64 < (List.replicate 65 (⟨1⟩ : Frame)).length
      ∧ s.can.alertEn.getLsbD 0 = true := by
  refine ⟨rfl, rfl, rfl, fun f hf => ?_, by decide, by decide, by decide⟩
  rw [List.eq_of_mem_replicate hf]
  decide

/-- Each event of the bus as the next step. -/
theorem test_hyp_BusEvents :
    ParamsOk (onBus [] 0#3).cfg
      ∧ nextTurn { onBus [] 0#3 with script := [1] } = some (.other .canBusErr)
      ∧ nextTurn { onBus [] 0#3 with script := [2] } = some (.other .canErrPass) :=
  ⟨rfl, by decide, by decide⟩

theorem test_hyp_Independence :
    displaySide (.delay 0) = true ∧ (∃ t, exec (.delay 0) (fresh []) = .next t)
      ∧ (fresh []).can.phase ≠ .running ∧ CanState.reset.phase ≠ .running
      ∧ (∃ t, exec (.delay 0) (onBus [⟨1⟩] 0#3) = .next t)
      ∧ (onBus [⟨1⟩] 0#3).can.phase = .running ∧ (onBus [] 7#3).can.phase = .running
      ∧ displaySide .canrecv = false ∧ ∃ t, exec .canrecv (fresh []) = .next t :=
  ⟨rfl, exec_answers_next _ _, by decide, by decide, exec_answers_next _ _, rfl, rfl, rfl,
    exec_answers_next _ _⟩

/-- R214's conditions on 95_test_vectors.md's configuration. -/
def GeometryFits (p : Params) (c : PlaneConfig) : Prop :=
  c.hRes = p.panelW ∧ c.vRes = p.panelH ∧ c.bpp = p.bpp ∧ 1 ≤ c.fbCount ∧ 1 ≤ c.hsyncPw
    ∧ 1 ≤ c.vsyncPw ∧ 1 ≤ c.pclkHz ∧ 1 ≤ c.dataWidth

theorem test_geometry : GeometryFits testCfg Config.examplePlane := by unfold GeometryFits; decide

theorem test_hyp_Dpcfg :
    (fresh []).rgb.phase = .unconfigured ∧ GeometryFits (fresh []).cfg Config.examplePlane
      ∧ ({ fresh [] with seq := { SeqState.reset with seqDone := true } } : State).seq.seqDone = true
      ∧ drawVal (fresh [1]) % 2 = 1 ∧ drawVal (fresh [0]) % 2 ≠ 1 :=
  ⟨rfl, test_geometry, rfl, by decide, by decide⟩

/-- SCAN's turn with no frame open and with one. -/
theorem test_hyp_Frame :
    ParamsOk (painting [] []).cfg ∧ nextTurn (painting [] []) = some (.other .scan)
      ∧ (painting [] []).rgb.scanOpen = false
      ∧ nextTurn (frameBegin (painting [] [])) = some (.other .scan)
      ∧ (frameBegin (painting [] [])).rgb.scanOpen = true := ⟨rfl, by decide, rfl, by decide, rfl⟩

/-- A request of BL_MAX exactly, and 0. -/
theorem test_hyp_Blset :
    (painting [] []).cfg.blMax ≠ 0 ∧ (painting [] []).rgb.phase = .running
      ∧ (painting [] []).cfg.blMax ≤ 100 := by decide

/-- V-A1's pair, the second buffer right after the first; a null; and a pair that is not null and
not legal, the first buffer not aligned. -/
theorem test_hyp_Bufalloc :
    (fresh []).blit.allocState = .none ∧ 240 * 960 * 2 / 5 ≠ 0 ∧ 2 = (fresh []).cfg.bytesPP
      ∧ drawVal (fresh [0x3FC90000, 0x3FCA6800]) = 0x3FC90000
      ∧ drawVal (afterDraw (fresh [0x3FC90000, 0x3FCA6800])) = 0x3FCA6800
      ∧ 0x3FC90000 % 32 = 0 ∧ 0x3FCA6800 % 32 = 0
      ∧ 0x3FC90000 + 240 * 960 * 2 / 5 ≤ 0x3FCA6800 ∧ 0x3FCA6800 + 240 * 960 * 2 / 5 ≤ 2 ^ 32
      ∧ dmaCapable (fresh []).cfg 0x3FC90000 (240 * 960 * 2 / 5) = true
      ∧ dmaCapable (fresh []).cfg 0x3FCA6800 (240 * 960 * 2 / 5) = true
      ∧ drawVal (fresh [0, 0x3FCA6800]) = 0
      ∧ drawVal (fresh [33, 0x3FCA6800]) ≠ 0
      ∧ drawVal (afterDraw (fresh [33, 0x3FCA6800])) ≠ 0 ∧ 33 % 32 ≠ 0 := by decide

theorem test_hyp_Flushreg :
    let s : State := { fresh [] with blit := { BlitState.reset with allocState := .ok } }
    s.blit.flushRegistered = false ∧ s.blit.gfxAborted = false ∧ s.blit.allocState ≠ .none := by decide

/-- The last pixel of the panel, clamped on both sides, its two source bytes written: the stride is 1
under CLAMPED and 2 under REQUESTED. -/
theorem test_hyp_BlitCopies :
    let s := painting [(16, 1#8), (17, 2#8)] []
    let w : Window := ⟨3, 4, 2, 9⟩
    min (w.xe + 1) s.cfg.panelW = 4 ∧ min (w.ye + 1) s.cfg.panelH = 3
      ∧ s.cfg.srcStride = .clamped ∧ 4 - w.xs = 1
      ∧ ({ s.cfg with srcStride := .requested } : Params).srcStride = .requested ∧ w.xe + 1 - w.xs = 2
      ∧ PlaneReady s w ∧ w.xs < 4 ∧ w.ys < 3 ∧ (16#32).toNat % s.cfg.bytesPP = 0
      ∧ ∀ stride x y j, w.xs ≤ x → x < 4 → w.ys ≤ y → y < 3 → j < s.cfg.bytesPP →
          memByte s.mem ((16#32).toNat + ((y - w.ys) * stride + (x - w.xs)) * s.cfg.bytesPP + j) ≠ none := by
  refine ⟨by decide, by decide, rfl, by decide, rfl, by decide, ⟨rfl, by decide, by decide⟩, by decide,
    by decide, by decide, ?_⟩
  intro stride x y j hx hx' hy hy' hj
  have ex : x = 3 := by simp only at hx; omega
  have ey : y = 2 := by simp only at hy; omega
  have hb : (painting [(16, 1#8), (17, 2#8)] []).cfg.bytesPP = 2 := rfl
  rw [hb] at hj
  subst ex ey
  interval_cases j <;> simp <;> decide

/-- Empty to the right and empty below. -/
theorem test_hyp_Degenerate :
    (painting [] []).rgb.phase = .running ∧ min (9 + 1) (painting [] []).cfg.panelW ≤ 4
      ∧ min (9 + 1) (painting [] []).cfg.panelH ≤ 3 := by decide

/-- A pointer off by one; and an aligned one whose second byte was never written. -/
theorem test_hyp_BlitFaults :
    let s := painting [(16, 1#8)] []
    let w : Window := ⟨0, 0, 0, 0⟩
    s.rgb.phase = .running ∧ w.xs < clampX s.cfg w ∧ w.ys < clampY s.cfg w
      ∧ (17#32).toNat % s.cfg.bytesPP ≠ 0 ∧ (16#32).toNat % s.cfg.bytesPP = 0
      ∧ ¬ SourceWritten s w (16#32).toNat := by
  refine ⟨rfl, by decide, by decide, by decide, by decide, fun h => ?_⟩
  exact h 0 0 1 (by decide) (by decide) (by decide) (by decide) (by decide) (by decide)

/-- The same for FLUSH: the buffer at 32, whose first byte alone is written, and a pointer at 33. -/
theorem test_hyp_FlushFaults :
    let s := flushing [(32, 1#8)] []
    let w : Window := ⟨1, 1, 1, 1⟩
    s.rgb.phase = .running ∧ w.xs < clampX s.cfg w ∧ w.ys < clampY s.cfg w
      ∧ w = ⟨0 + s.blit.offX.toNat, 0 + s.blit.offX.toNat, 0 + s.blit.offY.toNat, 0 + s.blit.offY.toNat⟩
      ∧ s.blit.gfxAborted = false ∧ s.blit.flushRegistered = true
      ∧ pixelsOk s.cfg s.blit (33#32).toNat 0 0 0 0 = true ∧ (33#32).toNat % s.cfg.bytesPP ≠ 0
      ∧ pixelsOk s.cfg s.blit (32#32).toNat 0 0 0 0 = true ∧ (32#32).toNat % s.cfg.bytesPP = 0
      ∧ ¬ SourceWritten s w (32#32).toNat := by
  refine ⟨rfl, by decide, by decide, by decide, rfl, rfl, by decide, by decide, by decide, by decide,
    fun h => ?_⟩
  exact h 1 1 1 (by decide) (by decide) (by decide) (by decide) (by decide) (by decide)

/-- One pixel to transfer; and a region empty after clamping, its first corner past the panel. -/
theorem test_hyp_Flush :
    let s := flushing [(32, 1#8), (33, 2#8)] []
    s.blit.gfxAborted = false ∧ s.blit.flushRegistered = true
      ∧ (if 0 ≤ 0 ∧ 0 ≤ 0 then (0 - 0 + 1) * (0 - 0 + 1) * s.cfg.bytesPP else 0) = 2
      ∧ s.blit.buf1.toNat ≤ (32#32).toNat ∧ (32#32).toNat + 2 ≤ s.blit.buf1.toNat + s.blit.bufSize
      ∧ PlaneReady s ⟨0 + s.blit.offX.toNat, 0 + s.blit.offX.toNat, 0 + s.blit.offY.toNat, 0 + s.blit.offY.toNat⟩
      ∧ SourceWritten s ⟨1, 1, 1, 1⟩ (32#32).toNat ∧ (32#32).toNat % s.cfg.bytesPP = 0
      ∧ ¬ (3 + s.blit.offX.toNat < clampX s.cfg ⟨4, 4, 1, 1⟩) := by
  refine ⟨rfl, rfl, by decide, by decide, by decide, ⟨rfl, by decide, by decide⟩, ?_, by decide, by decide⟩
  intro x y j hx hx' hy hy' hj
  have h4 : clampX (flushing [(32, 1#8), (33, 2#8)] []).cfg ⟨1, 1, 1, 1⟩ = 2 := by decide
  have h3 : clampY (flushing [(32, 1#8), (33, 2#8)] []).cfg ⟨1, 1, 1, 1⟩ = 2 := by decide
  have hb : (flushing [(32, 1#8), (33, 2#8)] []).cfg.bytesPP = 2 := rfl
  rw [h4] at hx'
  rw [h3] at hy'
  rw [hb] at hj
  have ex : x = 1 := by simp only at hx; omega
  have ey : y = 1 := by simp only at hy; omega
  subst ex ey
  interval_cases j <;> decide

theorem test_hyp_Aborted :
    let s : State :=
      { fresh [] with blit := { BlitState.reset with allocState := .failed, gfxAborted := true } }
    s.blit.gfxAborted = true ∧ s.blit.flushRegistered = false := by decide

/-- Each refusal's own condition, in the order of the statement; a set that fails both of R8's checks
answers badParameters (log 9). -/
theorem test_hyp_Refusals :
    ¬ (1 ≤ ({ testCfg with panelW := 0 } : Params).panelW)
      ∧ ({ testCfg with transcript := [] } : Params).transcript = [] ∧ parametersOk testCfg = true
      ∧ paramsRefusal { testCfg with panelW := 0, transcript := [] } = some .badParameters
      ∧ ¬ PinsDiffer { testCfg with csPin := 2#8 } ∧ ({ testCfg with blMax := 0 } : Params).blMax = 0
      ∧ (onBus [] 0#3).can.tried = true ∧ (fresh []).can.tried = false
      ∧ ({ Config.exampleBus with rxqDepth := 0 } : BusConfig).rxqDepth = 0
      ∧ (painting [] []).rgb.phase ≠ .unconfigured ∧ (fresh []).rgb.phase = .unconfigured
      ∧ ¬ GeometryFits testCfg { Config.examplePlane with hRes := 961 }
      ∧ (flushing [] []).blit.allocState ≠ .none ∧ (fresh []).blit.allocState = .none
      ∧ 3 ≠ (fresh []).cfg.bytesPP ∧ 2 = (fresh []).cfg.bytesPP ∧ 2 * 1 * 2 < 5
      ∧ (flushing [] []).blit.flushRegistered = true
      ∧ (let s := { flushing [] [] with blit := { (flushing [] []).blit with flushRegistered := false } }
        s.blit.gfxAborted = false ∧ s.blit.allocState ≠ .none ∧ 3 ≠ s.blit.allocVw) := by
  refine ⟨by decide, rfl, by decide, by decide, ?_, rfl, rfl, rfl, rfl, by decide, rfl, ?_, by decide, rfl,
    by decide, rfl, by decide, rfl, rfl, by decide, by decide⟩
  · unfold PinsDiffer; decide
  · unfold GeometryFits; decide

/-- One pin for both lines, chip-select held and not. -/
theorem test_hyp_SharedPin :
    let p : Params := { testCfg with csPin := 2#8 }
    p.rstPin = p.csPin ∧ ({ fresh [] with cfg := p } : State).seq.csHeld = false
      ∧ ({ talking [] with cfg := p } : State).seq.csHeld = true := by decide

/-- What the operations out of order need: V-R1, V-R3, V-F1, V-FL2, V-FL5. Pixels of 2 bytes from the
buffers of 8 at 32 and 64: at 38 the last that fit, at 39 one byte too far; the plane not running. -/
theorem test_hyp_OutOfOrder :
    (fresh []).rgb.phase = .unconfigured ∧ GeometryFits (fresh []).cfg Config.examplePlane
      ∧ (fresh []).seq.seqDone = false ∧ (fresh []).cfg.blMax ≠ 0 ∧ (fresh []).rgb.phase ≠ .running
      ∧ (fresh []).blit.flushRegistered = false ∧ (fresh []).blit.gfxAborted = false
      ∧ (fresh []).blit.allocState = .none ∧ (flushing [] []).blit.gfxAborted = false
      ∧ (flushing [] []).blit.flushRegistered = true
      ∧ (∃ b ∈ [(flushing [] []).blit.buf1.toNat, (flushing [] []).blit.buf2.toNat],
          b ≤ 38 ∧ 38 + 2 ≤ b + (flushing [] []).blit.bufSize)
      ∧ (¬ ∃ b ∈ [(flushing [] []).blit.buf1.toNat, (flushing [] []).blit.buf2.toNat],
          b ≤ 39 ∧ 39 + 2 ≤ b + (flushing [] []).blit.bufSize)
      ∧ ({ flushing [] [] with rgb := RgbState.reset } : State).rgb.phase ≠ .running :=
  ⟨rfl, test_geometry, rfl, by decide, by decide, rfl, rfl, rfl, rfl, rfl, by decide, by decide, by decide⟩

/-- A running machine with memory: a step of SCAN. -/
theorem test_hyp_HostAndMemory :
    HostInv (painting [(16, 1#8)] []) ∧ MemInv (painting [(16, 1#8)] [])
      ∧ ∃ t, step (painting [(16, 1#8)] []) = .next t :=
  ⟨⟨by decide, (by intro r h; cases h), by decide, by decide⟩,
    ⟨by decide, by decide⟩, _, rfl⟩

/-- A word to send, chip-select held. -/
theorem test_hyp_Seq :
    SeqInv (talking []) ∧ ∃ t, step { talking [] with desc := [0x00001101#32] } = .next t :=
  ⟨⟨rfl, by decide, by decide, by decide, (by intro t h; cases h), by decide,
      (by intro t h; cases h; decide), by decide, by decide⟩, _, rfl⟩

/-- A full queue with QUEUE_FULL pending, and the next event of the bus drawn. -/
theorem test_hyp_Can :
    CanInv { onBus [⟨1⟩, ⟨1⟩] 1#3 with script := [1] }
      ∧ ∃ t, step { onBus [⟨1⟩, ⟨1⟩] 1#3 with script := [1] } = .next t :=
  ⟨⟨by decide, by decide, rfl, by decide, by decide, by decide, by decide⟩, _, rfl⟩

/-- A running data plane, with a frame open and a byte of it written since. -/
theorem test_hyp_Rgb :
    let s : State :=
      { painting [] [] with
        rgb :=
          { (painting [] []).rgb with
            fb := [⟨24, [(5, 7#8)]⟩], scanOpen := true, scanSeen := ⟨[], [(5, 7#8)]⟩ } }
    RgbInv s ∧ ∃ t, step s = .next t := by
  refine ⟨⟨by decide, by decide, by decide, by decide, by decide, by decide, by decide, by decide, ?_,
    by decide, by decide, by decide⟩, _, rfl⟩
  intro _ i
  by_cases h : i = 5
  · subst h; decide
  · refine List.mem_cons.mpr (.inl ?_)
    show Memory.read [(5, 7#8)] i = none
    rw [Memory.read_cons, if_neg (by omega)]
    rfl

/-- Registered draw buffers. -/
theorem test_hyp_Blit :
    let s := { flushing [] [] with
      cfg := { (flushing [] []).cfg with dmaRegions := [(0, 128)] } }
    BlitInv s ∧ ∃ t, step s = .next t :=
  ⟨⟨by decide, by decide, by decide, by decide, by decide, by decide, by decide⟩, _, rfl⟩

theorem test_hyp_Reset :
    Memory.wf [(16, 1#8), (4294967295, 2#8)] = true
      ∧ Memory.under addrSpace [(16, 1#8), (4294967295, 2#8)] = true := by decide

/-- A step with FAULT set and one with QMARK set; the program is stopped in both. -/
theorem test_hyp_Sticky :
    (∃ t, step { painting [] [] with fault := some ⟨.misaligned, 0, 1⟩ } = .next t)
      ∧ ∃ t, step { painting [] [] with qmark := some .geometry } = .next t :=
  ⟨⟨_, rfl⟩, _, rfl⟩

/-- Stopped with an agent still enabled, and with none. -/
theorem test_hyp_Stopped :
    ParamsOk (painting [] []).cfg ∧ (painting [] []).desc.length ≤ (painting [] []).pc
      ∧ (painting [] []).rgb.phase = .running ∧ (onBus [] 0#3).can.phase = .running
      ∧ (∃ t, step (painting [] []) = .next t)
      ∧ (fresh []).can.phase ≠ .running ∧ (fresh []).rgb.phase ≠ .running
      ∧ (fresh []).rgb.scanOpen = false ∧ (fresh []).desc.length ≤ (fresh []).pc :=
  ⟨rfl, by decide, rfl, rfl, ⟨_, rfl⟩, by decide, by decide, by decide, by decide⟩

/-- A step that moves the clock, and each kind of operation once. -/
theorem test_hyp_Steps :
    (∃ t, step (loaded [0x00780003#32]) = .next t)
      ∧ ∀ (i : Instr) (s : State), ∃ t, exec i s = .next t :=
  ⟨⟨_, rfl⟩, exec_answers_next⟩

theorem test_hyp_CanImmutable :
    (onBus [] 0#3).can.tried = true ∧ ∃ t, step { onBus [] 0#3 with script := [2] } = .next t :=
  ⟨rfl, _, rfl⟩

end Sys2Proof.Machine
end

section
/-! PROOFS. Family 10_state: what a decoded operation may write of the host port, memory and the result
registers (O48, O57, O58). -/

namespace Sys2Proof.Machine

/-! ### Decoded instructions -/

theorem assemble_opcode (o : Opcode) (w : Nat → Word) : (o.assemble w).opcode = o := by
  cases o <;> rfl

theorem fits_toNat {k : Nat} (v : BitVec k) : fits k v.toNat = true := by
  simp [fits, v.isLt]

theorem fits_lo16 (v : Word) : fits 16 (lo16 v) = true := fits_toNat _
theorem fits_hi16 (v : Word) : fits 16 (hi16 v) = true := fits_toNat _

/-- Fields cut out of words fit, so what decoding assembles is well-formed. -/
theorem assemble_wf (o : Opcode) (w : Nat → Word) : (o.assemble w).wf = true := by
  cases o <;>
    simp [Opcode.assemble, Instr.wf, BusConfig.wf, PlaneConfig.wf, busOf, planeOf, fits_lo16,
      fits_hi16, fits_toNat, -BitVec.extractLsb'_toNat]

/-- A decoded instruction is well-formed and its words lie inside descriptor memory. -/
theorem decode_eq_instr {d : List Word} {pc : Nat} {i : Instr} (h : decode d pc = .instr i) :
    i.wf = true ∧ pc + i.opcode.len ≤ d.length := by
  unfold decode at h
  split at h
  · cases h
  · split at h
    · cases h
    · rename_i o _
      split at h
      · cases h
      · rename_i hlen
        split at h
        · cases h
        · cases h
          rw [assemble_opcode]
          exact ⟨assemble_wf _ _, Nat.le_of_not_lt hlen⟩

/-! ### Sub-steps -/

/-- Every operation belongs to one of the four sub-units. -/
theorem opcode_unit (o : Opcode) :
    o ∈ [Opcode.wrcmd, .wrdata, .delay, .csen, .csdis, .preset, .initseq, .setpin]
      ∨ o ∈ [Opcode.cancfg, .canrecv, .canalrt] ∨ o ∈ [Opcode.dpcfg, .blset]
      ∨ o ∈ [Opcode.bufalloc, .flushreg, .flush, .blit] := by
  cases o <;> decide

/-- A check before a sub-step: each of its two outcomes ends well. -/
theorem Sub.Ends.ite {P : State → Prop} {c : Prop} [Decidable c] {a b : Sub} (ha : c → a.Ends P)
    (hb : ¬ c → b.Ends P) : (if c then a else b).Ends P := by
  split
  · exact ha ‹_›
  · exact hb ‹_›

theorem Sub.Ends.imp {P Q : State → Prop} (hPQ : ∀ s, P s → Q s) {r : Sub} (h : r.Ends P) :
    r.Ends Q := by
  cases r with
  | done s => exact hPQ s h
  | raised s c n => exact hPQ s h
  | refused q => trivial

/-- Where the sub-steps of SEQ's operations end, a property kept by SEQ's primitives holds. -/
theorem exec_seq_ends {P : State → Prop} (hP : SeqKeeps P) (hb : ∀ s, P s → P (beginInitseq s))
    (he : ∀ s, P s → P (endInitseq s)) {i : Instr} {s : State}
    (hi : i.opcode ∈ [Opcode.wrcmd, .wrdata, .delay, .csen, .csdis, .preset, .initseq, .setpin])
    (h : P s) : ∃ r, exec i s = finish i.opcode s r ∧ r.Ends P := by
  cases i with
  | wrcmd c => exact ⟨_, rfl, xmitWord_ends hP.draw hP.word h⟩
  | wrdata b => exact ⟨_, rfl, xmitWord_ends hP.draw hP.word h⟩
  | delay n => exact ⟨.done (wait n s), rfl, hP.wait n s h⟩
  | csen => exact ⟨_, rfl, csEnable_ends hP h⟩
  | csdis => exact ⟨_, rfl, csDisable_ends hP h⟩
  | preset => exact ⟨_, rfl, presetBody_ends hP h⟩
  | initseq => exact ⟨_, rfl, initseqBody_ends hP hb he h⟩
  | setpin p l => exact ⟨_, rfl, setPin_ends hP h⟩
  | _ => simp [Instr.opcode] at hi

/-! ### What an operation's sub-steps leave of the host port, the results, memory and the pixels -/

/-- From `s` to `t`, the operation `o` has written a result register, diag or a frame buffer only where it
owns it (10_state.md R32, R33, R53, R60). -/
structure OwnResults (o : Opcode) (s t : State) : Prop where
  res : t.res = s.res
    ∨ o ∈ [Opcode.cancfg, .canrecv, .canalrt, .dpcfg, .bufalloc] ∧ ∃ st : Status, t.res = st.code
  rval : t.rval = s.rval ∨ o = .canalrt ∧ ∃ alerts : BitVec 3, t.rval = alerts.setWidth 32
  rframe : t.rframe = s.rframe ∨ o = .canrecv
  diag : ∃ failures : List Status, t.diag = s.diag ++ failures
    ∧ ∀ st ∈ failures, o ∈ [Opcode.cancfg, .dpcfg, .bufalloc] ∧ st ≠ .ok ∧ st ≠ .empty
  fb : t.rgb.fb = s.rgb.fb ∨ o ∈ [Opcode.blit, .flush, .dpcfg]

/-- From `s` to `t`, sub-steps of the operation `o` have left PC, FAULT, QMARK, system memory, descriptor
memory and the parameters, and have written their own results alone. -/
structure Kept (o : Opcode) (s t : State) : Prop extends OwnResults o s t where
  pc : t.pc = s.pc
  desc : t.desc = s.desc
  cfg : t.cfg = s.cfg
  fault : t.fault = s.fault
  qmark : t.qmark = s.qmark
  mem : t.mem = s.mem

section
variable {o : Opcode} {s t : State}

theorem OwnResults.refl (o : Opcode) (s : State) : OwnResults o s s :=
  ⟨.inl rfl, .inl rfl, .inl rfl, ⟨[], by simp⟩, .inl rfl⟩

theorem Kept.refl (o : Opcode) (s : State) : Kept o s s :=
  ⟨.refl o s, rfl, rfl, rfl, rfl, rfl, rfl⟩

theorem Kept.draw (h : Kept o s t) : Kept o s (afterDraw t) := { h with }

theorem Kept.others (h : Kept o s t) : Kept o s (letOthersStep t) where
  pc := (letOthersStep_pc t).trans h.pc
  desc := (letOthersStep_desc t).trans h.desc
  cfg := (letOthersStep_cfg t).trans h.cfg
  fault := (letOthersStep_fault t).trans h.fault
  qmark := (letOthersStep_qmark t).trans h.qmark
  mem := (letOthersStep_mem t).trans h.mem
  res := letOthersStep_res t ▸ h.res
  rval := letOthersStep_rval t ▸ h.rval
  rframe := letOthersStep_rframe t ▸ h.rframe
  diag := letOthersStep_diag t ▸ h.diag
  fb := letOthersStep_fb t ▸ h.fb

/-- CANQ's and BLIT's state are written freely. -/
theorem Kept.withUnits (h : Kept o s t) (c : CanState) (b : BlitState) :
    Kept o s { t with can := c, blit := b } := { h with }

/-- RGBTC's state is written freely but for the frame buffers. -/
theorem Kept.withRgb (h : Kept o s t) (r : RgbState)
    (hfb : r.fb = t.rgb.fb ∨ o ∈ [Opcode.blit, .flush, .dpcfg]) : Kept o s { t with rgb := r } :=
  { h with fb := hfb.elim (fun e => e ▸ h.fb) .inr }

theorem Kept.setStatus (h : Kept o s t)
    (ho : o ∈ [Opcode.cancfg, .canrecv, .canalrt, .dpcfg, .bufalloc]) (st : Status) :
    Kept o s (setStatus st t) :=
  { h with res := .inr ⟨ho, st, rfl⟩ }

theorem Kept.reportFailure (h : Kept o s t) (ho : o ∈ [Opcode.cancfg, .dpcfg, .bufalloc]) {st : Status}
    (hok : st ≠ .ok) (hempty : st ≠ .empty) : Kept o s (reportFailure st t) := by
  obtain ⟨failures, hd, hf⟩ := h.diag
  have hres : [Opcode.cancfg, .dpcfg, .bufalloc]
      ⊆ [Opcode.cancfg, .canrecv, .canalrt, .dpcfg, .bufalloc] := by decide
  refine { h with res := .inr ⟨hres ho, st, rfl⟩, diag := ⟨failures ++ [st], by simp [hd], ?_⟩ }
  intro st' h'
  rcases List.mem_append.mp h' with h' | h'
  · exact hf _ h'
  · rw [List.mem_singleton.mp h']
    exact ⟨ho, hok, hempty⟩

/-- SEQ's operations own none of it. -/
theorem SameButSeq.kept (o : Opcode) (h : SameButSeq s t) : Kept o s t := by
  unfold SameButSeq at h
  rw [h]
  exact { Kept.refl o s with }

/-- A painting operation owns the frame buffers. -/
theorem SameButPainting.kept (ho : o ∈ [Opcode.blit, .flush, .dpcfg]) (h : SameButPainting s t) :
    Kept o s t := by
  unfold SameButPainting at h
  rw [h]
  exact { Kept.refl o s with fb := .inr ho }

end

/-- The two draws of CANCFG write a status, and diag on a failure. -/
theorem installOutcome_kept (c : BusConfig) (s : State) :
    Kept .cancfg s (installOutcome c (markTried s)) := by
  have h0 : Kept .cancfg s (afterDraw (markTried s)) := { Kept.refl .cancfg s with }
  unfold installOutcome
  split
  · have h1 : Kept .cancfg s (afterDraw (installCan c (afterDraw (markTried s)))) := { h0 with }
    unfold startOutcome
    split
    · exact (h1.withUnits _ _).setStatus (by decide) .ok
    · exact h1.reportFailure (by decide) (by decide) (by decide)
  · exact h0.reportFailure (by decide) (by decide) (by decide)

/-- CANRECV writes a status and RFRAME. -/
theorem receive_kept (s : State) : Kept .canrecv s (receive s) := by
  have hempty : Kept .canrecv s (recvEmpty s) :=
    { (Kept.refl .canrecv s).setStatus (by decide) .empty with rframe := .inr rfl }
  have hframe : ∀ f fs, Kept .canrecv s (recvFrame f fs s) := fun f fs =>
    { (Kept.refl .canrecv s).setStatus (by decide) .ok with rframe := .inr rfl }
  unfold receive
  split
  · exact hempty
  · exact hempty
  · exact hempty
  · exact hframe _ _
  · exact hframe _ _

/-- CANALRT writes a status and the alert bits. -/
theorem takeAlerts_kept (s : State) : Kept .canalrt s (takeAlerts s) :=
  { (Kept.refl .canalrt s).setStatus (by decide) .ok with rval := .inr ⟨rfl, s.can.alertStatus, rfl⟩ }

/-- The handle draw of DPCFG writes a status, RGBTC, and diag on a failure. -/
theorem planeOutcome_kept (c : PlaneConfig) (s : State) : Kept .dpcfg s (planeOutcome c s) := by
  have h0 : Kept .dpcfg s (letOthersStep (afterDraw s)) := (Kept.refl .dpcfg s).draw.others
  have hstart : Kept .dpcfg s (startPlane c (letOthersStep (afterDraw s))) :=
    h0.withRgb _ (.inr (by decide))
  have hfail : Kept .dpcfg s (failPlane (letOthersStep (afterDraw s))) := h0.withRgb _ (.inl rfl)
  unfold planeOutcome
  simp only
  split
  · exact hstart.others.setStatus (by decide) .ok
  · exact hfail.others.reportFailure (by decide) (by decide) (by decide)

/-- The address draw of BUFALLOC writes a status, BLIT's state, and diag on a failure. -/
theorem allocOutcome_kept (vw vh size : Nat) (s : State) : Kept .bufalloc s (allocOutcome vw vh size s) := by
  have h0 : Kept .bufalloc s (afterDraw (afterDraw s)) := (Kept.refl .bufalloc s).draw.draw
  unfold allocOutcome
  simp only
  split
  · exact (h0.withUnits _ _).setStatus (by decide) .ok
  · exact (h0.withUnits _ _).reportFailure (by decide) (by decide) (by decide)

/-- A flush's blit and its completion signal are painting. -/
theorem signalledBlit_painting (w : Window) (px : Nat) (s : State) :
    ((blitBody w px s).andThen (fun u => .done (signalCompletion w u))).Ends (SameButPainting s) :=
  (blitBody_painting w px s).andThen (fun _ hu => hu.others) (fun u hu => by
    show SameButPainting s (signalCompletion w u)
    unfold SameButPainting at hu ⊢
    rw [hu]
    rfl)

/-- Where the sub-steps of an operation end, only what the operation owns has changed. -/
theorem exec_kept (i : Instr) (s : State) :
    ∃ r, exec i s = finish i.opcode s r ∧ r.Ends (Kept i.opcode s) := by
  have h0 := Kept.refl i.opcode s
  rcases opcode_unit i.opcode with hi | hi
  · obtain ⟨r, he, hr⟩ := exec_seq_ends (sameButSeq_keeps s) (fun u hu => hu.withSeq u.now _)
      (fun u hu => hu.withSeq u.now _) hi (SameButSeq.refl s)
    exact ⟨r, he, hr.imp fun _ hu => hu.kept _⟩
  · cases i with
    | cancfg c =>
      exact ⟨_, rfl, .ite (fun _ => trivial) fun _ => .ite (fun _ => trivial) fun _ =>
        installOutcome_kept c s⟩
    | canrecv => exact ⟨.done (receive s), rfl, receive_kept s⟩
    | canalrt => exact ⟨.done (takeAlerts s), rfl, takeAlerts_kept s⟩
    | dpcfg c =>
      exact ⟨_, rfl, .ite (fun _ => trivial) fun _ => .ite (fun _ => trivial) fun _ =>
        .ite (fun _ => h0) fun _ => planeOutcome_kept c s⟩
    | blset req =>
      exact ⟨_, rfl, .ite (fun _ => trivial) fun _ => .ite (fun _ => h0) fun _ =>
        h0.withRgb _ (.inl rfl)⟩
    | bufalloc vw vh bpp f =>
      exact ⟨_, rfl, .ite (fun _ => trivial) fun _ => .ite (fun _ => trivial) fun _ =>
        .ite (fun _ => trivial) fun _ => .ite (fun _ => trivial) fun _ => allocOutcome_kept _ _ _ s⟩
    | flushreg vw vh ox oy rot =>
      exact ⟨_, rfl, .ite (fun _ => trivial) fun _ => .ite (fun _ => trivial) fun _ =>
        .ite (fun _ => h0) fun _ => .ite (fun _ => h0) fun _ => .ite (fun _ => trivial) fun _ =>
        h0.withUnits _ _⟩
    | flush x1 y1 x2 y2 px =>
      exact ⟨_, rfl, .ite (fun _ => h0) fun _ => .ite (fun _ => h0) fun _ => .ite (fun _ => h0) fun _ =>
        (signalledBlit_painting _ _ s).imp fun _ hu => hu.kept (by simp [Instr.opcode])⟩
    | blit xs xe ys ye px =>
      exact ⟨_, rfl, (blitBody_painting _ _ s).imp fun _ hu => hu.kept (by simp [Instr.opcode])⟩
    | _ => simp [Instr.opcode] at hi

/-! ### The host port and system memory -/

section
variable {s t : State}

/-- The other agents leave the host port. -/
theorem OthersRan.hostInv (h : OthersRan s t) (hs : HostInv s) : HostInv t where
  pc_in_program := by rw [h.pc_eq, h.desc_eq]; exact hs.pc_in_program
  fault_at_pc := by rw [h.pc_eq, h.fault_eq]; exact hs.fault_at_pc
  one_stop := by rw [h.fault_eq, h.qmark_eq]; exact hs.one_stop
  diag_holds_failures := by rw [h.diag_eq]; exact hs.diag_holds_failures

theorem MemInv.of_mem_eq (hs : MemInv s) (h : t.mem = s.mem) : MemInv t :=
  ⟨h ▸ hs.rising, h ▸ hs.in_space⟩

/-- A fault raised where HOST has not stopped records its PC. -/
theorem HostInv.raiseFault (hs : HostInv s) (hq : s.qmark = none) (c : FaultCode) (n : Nat) :
    HostInv (raiseFault c n s) where
  pc_in_program := hs.pc_in_program
  fault_at_pc := by rintro r ⟨⟩; rfl
  one_stop := .inr hq
  diag_holds_failures := hs.diag_holds_failures

theorem Kept.diag_holds_failures {o : Opcode} (h : Kept o s t) (hs : HostInv s) :
    ∀ st ∈ t.diag, st ≠ .ok ∧ st ≠ .empty := by
  obtain ⟨failures, hd, hf⟩ := h.diag
  intro st hst
  rcases List.mem_append.mp (hd ▸ hst) with h' | h'
  · exact hs.diag_holds_failures st h'
  · exact (hf st h').2

/-- However an operation ends, system memory, descriptor memory and the parameters stay. -/
theorem exec_program_eq {i : Instr} (h : exec i s = .next t) :
    t.desc = s.desc ∧ t.cfg = s.cfg ∧ t.mem = s.mem := by
  obtain ⟨r, he, hr⟩ := exec_kept i s
  rw [he] at h
  cases h
  exact complete_keeps (P := fun u => u.desc = s.desc ∧ u.cfg = s.cfg ∧ u.mem = s.mem)
    (fun _ _ hu => hu) (fun _ _ _ hu => hu) (fun _ _ hu => hu) ⟨rfl, rfl, rfl⟩
    (hr.imp fun _ hu => ⟨hu.desc, hu.cfg, hu.mem⟩)

/-- An operation of the program, run by a HOST that has not stopped, keeps the host port. -/
theorem exec_keeps_hostInv {i : Instr} (hs : HostInv s) (hf : s.fault = none) (hq : s.qmark = none)
    (hd : s.pc + i.opcode.len ≤ s.desc.length) (h : exec i s = .next t) : HostInv t := by
  obtain ⟨r, he, hr⟩ := exec_kept i s
  rw [he] at h
  cases h
  cases r with
  | done u =>
    have hu : Kept i.opcode s u := hr
    exact
      { pc_in_program := by simpa [hu.pc, hu.desc] using hd
        fault_at_pc := by simp [hu.fault, hf]
        one_stop := .inl (hu.fault.trans hf)
        diag_holds_failures := hu.diag_holds_failures hs }
  | raised u c n =>
    have hu : Kept i.opcode s u := hr
    refine HostInv.raiseFault ⟨?_, ?_, ?_, hu.diag_holds_failures hs⟩ (hu.qmark.trans hq) c n
    · rw [hu.pc, hu.desc]; exact hs.pc_in_program
    · simp [hu.fault, hf]
    · exact .inl (hu.fault.trans hf)
  | refused q => exact { hs with one_stop := .inl hf }

end

/-- Settles O48: the three kinds of step, and for an operation where its sub-steps end. -/
theorem stepKeepsHostPortAndMemory : Obligations.StepKeepsHostPortAndMemory := by
  intro s t hs hm h
  have hu : HostInv (atTurn s) := (afterChoice_ran _ s).hostInv hs
  obtain ⟨-, ⟨i, hf, hq, hi, he⟩ | ⟨c, n, -, hq, -, rfl⟩ | ⟨a, ha, rfl⟩⟩ := step_cases h
  · have hlen := (decode_eq_instr hi).2
    exact ⟨exec_keeps_hostInv hu (by simpa using hf) (by simpa using hq) (by simpa using hlen) he,
      hm.of_mem_eq (by simpa using (exec_program_eq he).2.2)⟩
  · exact ⟨hu.raiseFault (by simpa using hq) c n, hm.of_mem_eq (by simp)⟩
  · have hr := agentStep_atTurn_ran ha
    exact ⟨hr.hostInv hs, hm.of_mem_eq hr.mem_eq⟩

/-- Settles O57: HOST's operations, decode faults and the other agents all leave the three alone. -/
theorem noStepWritesMemoryOrProgram : Obligations.NoStepWritesMemoryOrProgram := by
  intro s t h
  have key : t.desc = s.desc ∧ t.cfg = s.cfg ∧ t.mem = s.mem := by
    obtain ⟨-, ⟨i, -, -, -, he⟩ | ⟨c, n, -, -, -, rfl⟩ | ⟨a, ha, rfl⟩⟩ := step_cases h
    · simpa using exec_program_eq he
    · simp
    · have hr := agentStep_atTurn_ran ha
      exact ⟨hr.desc_eq, hr.cfg_eq, hr.mem_eq⟩
  obtain ⟨hdesc, hcfg, hmem⟩ := key
  exact ⟨hdesc, hcfg, fun a => by rw [hmem]⟩

theorem status_code_le (st : Status) : st.code.toNat ≤ 5 := by cases st <;> decide

theorem setWidth_alerts_lt (alerts : BitVec 3) : (alerts.setWidth 32).toNat < 8 := by
  have := alerts.isLt
  simp only [BitVec.toNat_setWidth]
  omega

/-- Settles O58: the sub-steps write their own results alone, and the operation's end writes none. -/
theorem resultsAreWrittenOnlyByTheirOperations : Obligations.ResultsAreWrittenOnlyByTheirOperations := by
  intro i s t h
  have own : OwnResults i.opcode s t := by
    obtain ⟨r, he, hr⟩ := exec_kept i s
    rw [he] at h
    cases h
    exact complete_keeps (P := OwnResults i.opcode s) (fun _ _ hu => { hu with })
      (fun _ _ _ hu => { hu with }) (fun _ _ hu => { hu with }) (.refl _ s)
      (hr.imp fun _ hu => hu.toOwnResults)
  obtain ⟨hres, hrval, hrframe, ⟨failures, hdiag, hown⟩, hfb⟩ := own
  refine ⟨fun ho => ?_, ?_, fun ho => ?_, ?_, fun ho => ?_, fun ho => ?_, fun ho => ?_⟩
  · exact hres.resolve_right fun hr => ho hr.1
  · rcases hres with hr | ⟨-, st, hr⟩
    · exact .inl hr
    · exact .inr (hr ▸ status_code_le st)
  · exact hrval.resolve_right fun hr => ho hr.1
  · rcases hrval with hr | ⟨-, alerts, hr⟩
    · exact .inl hr
    · exact .inr (hr ▸ setWidth_alerts_lt alerts)
  · exact hrframe.resolve_right ho
  · have : failures = [] := List.eq_nil_iff_forall_not_mem.mpr fun st hst => ho (hown st hst).1
    simpa [this] using hdiag
  · exact hfb.resolve_right ho

end Sys2Proof.Machine
end

section
/-! PROOFS. Family 10_state: SEQ, the clock and the transfer log (O56, O49). -/

namespace Sys2Proof.Machine

/-! ### The clock, the transfer log and seq_done -/

theorem resetLine_low (now : Nat) (q : SeqState) :
    resetLine now false q
      = { q with rstLevel := .lo, rstLowAt := some (q.rstLowAt.getD now), panelReadyAt := none } := rfl

theorem resetLine_high_untimed {q : SeqState} (h : q.rstLowAt = none) (now : Nat) :
    resetLine now true q = { q with rstLevel := .hi } := by
  simp [resetLine, h]

theorem resetLine_high_timed {q : SeqState} {t : Nat} (h : q.rstLowAt = some t) (now : Nat) :
    resetLine now true q
      = { q with
          rstLevel := .hi
          panelReadyAt := if tRstLow ≤ now - t then some (now + tRstWait) else none
          rstLowAt := none } := by
  simp [resetLine, h]

/-- ResetLine writes the reset line's level, its low time and the readiness. -/
theorem resetLine_only (now : Nat) (l : Bool) (q : SeqState) :
    ∃ level lowAt readyAt,
      resetLine now l q = { q with rstLevel := level, rstLowAt := lowAt, panelReadyAt := readyAt } := by
  cases l with
  | false => exact ⟨_, _, _, resetLine_low now q⟩
  | true =>
    cases hq : q.rstLowAt with
    | none => exact ⟨_, none, _, by rw [resetLine_high_untimed hq, ← hq]⟩
    | some t => exact ⟨_, _, _, resetLine_high_timed hq now⟩

/-- set_pin writes the Edge, and at most the two lines' elements. -/
theorem pinEffect_only (p : Params) (now : Nat) (pin : BitVec 8) (l : Bool) (q : SeqState) :
    ∃ rstLevel lowAt readyAt csLevel settle,
      pinEffect p now pin l q
          = { q with
              log := q.log ++ [.edge now pin l]
              rstLevel := rstLevel, rstLowAt := lowAt, panelReadyAt := readyAt
              csLevel := csLevel, settleUntil := settle }
        ∧ (csLevel = levelOf l ∨ csLevel = q.csLevel) := by
  obtain ⟨_, _, _, hr⟩ := resetLine_only now l { q with log := q.log ++ [.edge now pin l] }
  unfold pinEffect csLine
  simp only [hr]
  split
  · split
    · exact ⟨_, _, _, _, _, rfl, .inl rfl⟩
    · exact ⟨_, _, _, _, _, rfl, .inl rfl⟩
  · split
    · exact ⟨_, _, _, _, _, rfl, .inr rfl⟩
    · exact ⟨_, _, _, _, _, rfl, .inr rfl⟩

@[simp] theorem pinEffect_log (p : Params) (now : Nat) (pin : BitVec 8) (l : Bool) (q : SeqState) :
    (pinEffect p now pin l q).log = q.log ++ [.edge now pin l] := by
  obtain ⟨_, _, _, _, _, h, -⟩ := pinEffect_only p now pin l q
  rw [h]

@[simp] theorem pinEffect_seqDone (p : Params) (now : Nat) (pin : BitVec 8) (l : Bool) (q : SeqState) :
    (pinEffect p now pin l q).seqDone = q.seqDone := by
  obtain ⟨_, _, _, _, _, h, -⟩ := pinEffect_only p now pin l q
  rw [h]

theorem levelOf_ne_x (l : Bool) : levelOf l ≠ .x := by cases l <;> decide

/-- A line that was driven once stays driven. -/
theorem pinEffect_driven {q : SeqState} (h : q.csLevel ≠ .x) (p : Params) (now : Nat) (pin : BitVec 8)
    (l : Bool) : (pinEffect p now pin l q).csLevel ≠ .x := by
  obtain ⟨_, _, _, csLevel, _, hp, hcs⟩ := pinEffect_only p now pin l q
  rw [hp]
  rcases hcs with rfl | rfl
  · exact levelOf_ne_x l
  · exact h

/-- SEQ moves forward from its state in `s` to `q` at time `n`: the clock does not go back, the log is
appended to, and seq_done stays once it is set. -/
structure SeqForward (s : State) (n : Nat) (q : SeqState) : Prop where
  clock : s.now ≤ n
  log : ∃ evs, q.log = s.seq.log ++ evs
  done : s.seq.seqDone = true → q.seqDone = true

/-- Every primitive of SEQ moves it forward, so a property kept by a draw, by the other agents and by any
such move holds where the sub-steps of an operation of SEQ end. -/
theorem exec_seq_forward {P : State → Prop} (hd : ∀ s, P s → P (afterDraw s))
    (ho : ∀ s, P s → P (letOthersStep s)) (hs : ∀ s n q, SeqForward s n q → P s → P (s.withSeq n q))
    {i : Instr} {s : State}
    (hi : i.opcode ∈ [Opcode.wrcmd, .wrdata, .delay, .csen, .csdis, .preset, .initseq, .setpin])
    (h : P s) : ∃ r, exec i s = finish i.opcode s r ∧ r.Ends P := by
  have still : ∀ s q, q.log = s.seq.log → (s.seq.seqDone = true → q.seqDone = true) → P s →
      P (s.withSeq s.now q) :=
    fun s q hlog hdone => hs s s.now q ⟨le_rfl, ⟨[], by simp [hlog]⟩, hdone⟩
  have hP : SeqKeeps P :=
    { draw := hd
      others := ho
      wait := fun n s h => by
        rw [wait_eq]
        exact hs _ _ _ ⟨by simp, by simp, by simp⟩ (ho _ (hd _ h))
      word := fun tag b req seen s h => by
        rw [sendWord_eq]
        exact hs _ _ _ ⟨by simp, by simp, by simp⟩ (ho _ (hd _ h))
      pin := fun p l s h => hs s s.now _ ⟨le_rfl, ⟨_, pinEffect_log ..⟩, by simp⟩ h
      held := fun _ s => still s _ rfl id
      ti := fun _ s => still s _ rfl id }
  exact exec_seq_ends hP (fun s => still s _ rfl id) (fun s => still s _ rfl fun _ => rfl) hi h

/-- From `s` to `t` the clock has not gone back and the log has only been appended to. -/
def Grown (s t : State) : Prop := s.now ≤ t.now ∧ ∃ evs, t.seq.log = s.seq.log ++ evs

theorem Grown.of_eq {s t : State} (hn : t.now = s.now) (hq : t.seq = s.seq) : Grown s t :=
  ⟨hn.ge, [], by simp [hq]⟩

theorem Grown.withSeq {s t : State} {n : Nat} {q : SeqState} (h : Grown s t) (hq : SeqForward t n q) :
    Grown s (t.withSeq n q) := by
  obtain ⟨hn, evs, he⟩ := h
  obtain ⟨evs', he'⟩ := hq.log
  exact ⟨hn.trans hq.clock, evs ++ evs', by simp [he', he]⟩

/-- Only SEQ's operations move the clock or the log at all. -/
theorem exec_grown {i : Instr} {s t : State} (h : exec i s = .next t) : Grown s t := by
  rcases opcode_unit i.opcode with hi | hi | hi | hi
  · obtain ⟨r, he, hr⟩ := exec_seq_forward (P := Grown s) (fun _ hu => hu)
      (fun u hu => by unfold Grown at *; simpa using hu) (fun _ _ _ hq hu => hu.withSeq hq) hi
      (.of_eq rfl rfl)
    rw [he] at h
    cases h
    exact complete_keeps (P := Grown s) (fun _ _ hu => hu) (fun _ _ _ hu => hu) (fun _ _ hu => hu)
      (.of_eq rfl rfl) hr
  · rw [exec_can_changes hi h]; exact .of_eq rfl rfl
  · rw [exec_rgb_changes hi h]; exact .of_eq rfl rfl
  · rw [exec_blit_changes hi h]; exact .of_eq rfl rfl

/-- Settles O56: HOST's operations move SEQ forward or not at all, and the other agents leave it. -/
theorem clockAndLogOnlyGrow : Obligations.ClockAndLogOnlyGrow := by
  intro s t h
  obtain ⟨-, ⟨i, -, -, -, he⟩ | ⟨c, n, -, -, -, rfl⟩ | ⟨a, ha, rfl⟩⟩ := step_cases h
  · simpa [Grown] using exec_grown he
  · exact Grown.of_eq (by simp) (by simp)
  · exact Grown.of_eq (agentStep_atTurn_ran ha).now_eq (agentStep_atTurn_ran ha).seq_eq

/-! ### SEQ's record of the lines -/

/-- What `SeqInv` says of SEQ at time `now`, between sub-steps too: `b` tells whether INITSEQ is under
way, in which case alone TI may count. -/
structure LineInv (b : Bool) (now : Nat) (q : SeqState) : Prop where
  not_busy : q.busy = false
  in_initseq : q.inInitseq = b
  ti_zero : b = false → q.ti = 0
  low_iff_timed : q.rstLevel = .lo ↔ q.rstLowAt ≠ none
  low_in_past : ∀ t, q.rstLowAt = some t → t ≤ now
  ready_means_released : q.panelReadyAt ≠ none → q.rstLevel = .hi
  ready_soon : ∀ t, q.panelReadyAt = some t → t ≤ now + tRstWait
  settle_soon : q.settleUntil ≤ now + tCs
  held_means_driven : q.csHeld = true → q.csLevel ≠ .x

section
variable {b : Bool} {now : Nat} {q : SeqState}

theorem LineInv.later {now' : Nat} (h : LineInv b now q) (hn : now ≤ now') : LineInv b now' q :=
  { h with
    low_in_past := fun t ht => (h.low_in_past t ht).trans hn
    ready_soon := fun t ht => (h.ready_soon t ht).trans (Nat.add_le_add_right hn _)
    settle_soon := h.settle_soon.trans (Nat.add_le_add_right hn _) }

/-- R149: low starts the low time, a release from low may start the readiness. -/
theorem LineInv.resetLine (h : LineInv b now q) (l : Bool) : LineInv b now (resetLine now l q) := by
  cases l with
  | false =>
    rw [resetLine_low]
    refine { h with
      low_iff_timed := by simp
      low_in_past := ?_
      ready_means_released := by simp
      ready_soon := by simp }
    rintro t ⟨⟩
    cases hq : q.rstLowAt with
    | none => exact le_rfl
    | some t => exact h.low_in_past t hq
  | true =>
    cases hq : q.rstLowAt with
    | none =>
      rw [resetLine_high_untimed hq]
      exact { h with low_iff_timed := by simp [hq], ready_means_released := fun _ => rfl }
    | some t =>
      rw [resetLine_high_timed hq]
      refine { h with
        low_iff_timed := by simp
        low_in_past := nofun
        ready_means_released := fun _ => rfl
        ready_soon := fun t' ht => ?_ }
      simp only [ite_eq_iff] at ht
      rcases ht with ⟨-, ⟨⟩⟩ | ⟨-, ⟨⟩⟩
      exact le_rfl

/-- R150: a chip-select edge drives the line and starts the settle time. -/
theorem LineInv.csLine (h : LineInv b now q) (l : Bool) : LineInv b now (csLine now l q) :=
  { h with settle_soon := le_rfl, held_means_driven := fun _ => levelOf_ne_x l }

theorem LineInv.pinEffect (h : LineInv b now q) (p : Params) (pin : BitVec 8) (l : Bool) :
    LineInv b now (pinEffect p now pin l q) := by
  have hlog : LineInv b now { q with log := q.log ++ [.edge now pin l] } := { h with }
  unfold Machine.pinEffect
  simp only
  split <;> split
  · exact (hlog.resetLine l).csLine l
  · exact hlog.csLine l
  · exact hlog.resetLine l
  · exact hlog

end

/-- The record of the lines is consistent in `s`. -/
def Lined (b : Bool) (s : State) : Prop := LineInv b s.now s.seq

/-- And chip-select has been driven, so it may be held. -/
def Driven (b : Bool) (s : State) : Prop := Lined b s ∧ s.seq.csLevel ≠ .x

section
variable {b : Bool} {s : State}

theorem Lined.others (h : Lined b s) : Lined b (letOthersStep s) := by
  unfold Lined at *
  simpa using h

theorem Lined.wait (h : Lined b s) (n : Nat) : Lined b (wait n s) := by
  unfold Lined
  rw [wait_now, wait_seq]
  exact { h.later (Nat.le_add_right _ _) with }

theorem Lined.word (h : Lined b s) (tag : Tag) (byte : Byte) (req : Nat) (seen : Bool) :
    Lined b (sendWord tag byte req seen s) := by
  rw [sendWord_eq]
  exact { h.later (Nat.le_add_right _ _) with not_busy := rfl }

theorem Lined.setPin (h : Lined b s) (pin : BitVec 8) (l : Bool) : (setPin pin l s).Ends (Lined b) := by
  rcases setPin_cases pin l s with ⟨-, h1⟩ | ⟨-, h1⟩ <;> rw [h1]
  · trivial
  · exact h.pinEffect _ _ _

theorem Driven.others (h : Driven b s) : Driven b (letOthersStep s) :=
  ⟨h.1.others, by simpa using h.2⟩

theorem Driven.wait (h : Driven b s) (n : Nat) : Driven b (wait n s) := ⟨h.1.wait n, by simpa using h.2⟩

theorem Driven.setCsHeld (h : Driven b s) (held : Bool) : Driven b (setCsHeld held s) :=
  ⟨{ h.1 with held_means_driven := fun _ => h.2 }, h.2⟩

/-- While INITSEQ is under way, SEQ's primitives keep a driven chip-select driven. -/
theorem driven_keeps : SeqKeeps (Driven true) where
  draw _ h := h
  others _ h := h.others
  wait n _ h := h.wait n
  word _ _ _ _ _ h := ⟨h.1.word .., by simpa using h.2⟩
  pin _ _ _ h := ⟨h.1.pinEffect .., pinEffect_driven h.2 _ _ _ _⟩
  held _ _ h := h.setCsHeld _
  ti _ _ h := ⟨{ h.1 with ti_zero := nofun }, h.2⟩

/-- What CSEN and CSDIS do past their pairing check drives chip-select. -/
theorem bracket_ends (h : Lined b s) (l held : Bool) :
    ((setPin s.cfg.csPin l s).andThen (fun u => .done (wait tCs (setCsHeld held u)))).Ends
      (Driven b) := by
  rcases setPin_cases s.cfg.csPin l s with ⟨-, h1⟩ | ⟨hp, h1⟩
  · rw [h1]; trivial
  · rw [h1]
    have hd : Driven b { s with seq := pinEffect s.cfg s.now s.cfg.csPin l s.seq } :=
      ⟨h.pinEffect .., by simpa [pinEffect_csPin hp] using levelOf_ne_x l⟩
    exact (hd.others.setCsHeld held).wait tCs

/-- CSEN faults at once or leaves chip-select driven. -/
theorem csEnable_driven (h : Lined b s) :
    csEnable s = .raised s .csPairing 1 ∨ (csEnable s).Ends (Driven b) := by
  unfold csEnable
  split
  · exact .inl rfl
  · exact .inr (bracket_ends h false true)

theorem csEnable_lined (h : Lined b s) : (csEnable s).Ends (Lined b) := by
  rcases csEnable_driven h with h1 | h1
  · rw [h1]; exact h
  · exact h1.imp fun _ hu => hu.1

theorem csDisable_lined (h : Lined b s) : (csDisable s).Ends (Lined b) := by
  unfold csDisable
  exact .ite (fun _ => (bracket_ends h true false).imp fun _ hu => hu.1) fun _ => h

theorem presetBody_lined (h : Lined b s) : (presetBody s).Ends (Lined b) :=
  (h.setPin _ _).andThen (fun _ hu => hu.others) fun _ hu =>
    ((hu.wait tRstLow).setPin _ _).andThen (fun _ hv => hv.others) fun _ hv => hv.wait tRstWait

/-- INITSEQ up to its last sub-step: chip-select is driven from CSEN on. -/
theorem bracketedReplay_lined (h : Lined true s) (es : List TranscriptEntry) :
    (((csEnable s).andThen (replay 0 es)).andThen csDisable).Ends (Lined true) := by
  rcases csEnable_driven h with h1 | h1
  · rw [h1]; exact h
  · exact ((h1.andThen driven_keeps.others fun _ hu => replay_ends driven_keeps es hu).andThen
      driven_keeps.others fun _ hu => csDisable_ends driven_keeps hu).imp fun _ hu => hu.1

theorem SeqInv.lined (h : SeqInv s) (hf : s.fault = none) : Lined false s :=
  have hin : s.seq.inInitseq = false :=
    Bool.eq_false_iff.mpr fun hi => h.initseq_open_only_at_fault hi hf
  { h with
    in_initseq := hin
    ti_zero := fun _ => by_contra fun ht => by simpa [hin] using h.ti_only_in_initseq ht }

theorem Lined.seqInv (h : Lined false s) : SeqInv s :=
  { h with
    initseq_open_only_at_fault := fun hi => by simp [h.in_initseq] at hi
    ti_only_in_initseq := fun ht => absurd (h.ti_zero rfl) ht }

theorem Lined.seqInv_of_fault (h : Lined true s) (hf : s.fault ≠ none) : SeqInv s :=
  { h with
    initseq_open_only_at_fault := fun _ => hf
    ti_only_in_initseq := fun _ => h.in_initseq }

/-- INITSEQ closes its record when it completes; a fault inside leaves it open. -/
theorem initseq_keeps_seqInv (h : Lined false s) (n : Nat) : SeqInv (complete s n (initseqBody s)) := by
  have hb : Lined true (beginInitseq s) := { h with in_initseq := rfl, ti_zero := nofun }
  have hr := bracketedReplay_lined hb s.cfg.transcript
  unfold initseqBody
  cases hx : ((csEnable (beginInitseq s)).andThen (replay 0 s.cfg.transcript)).andThen csDisable with
  | done u =>
    rw [hx] at hr
    have hu : Lined true (letOthersStep u) := Lined.others hr
    exact Lined.seqInv (s := advancePc n (endInitseq (letOthersStep u)))
      { hu with in_initseq := rfl, ti_zero := fun _ => rfl }
  | raised u c k =>
    rw [hx] at hr
    exact Lined.seqInv_of_fault (s := raiseFault c k u) hr (by simp)
  | refused q => exact Lined.seqInv (s := refuse q s) h

theorem exec_seq_keeps_seqInv {i : Instr} {t : State} (h : Lined false s)
    (hi : i.opcode ∈ [Opcode.wrcmd, .wrdata, .delay, .csen, .csdis, .preset, .initseq, .setpin])
    (he : exec i s = .next t) : SeqInv t := by
  have key : ∀ o r, r.Ends (Lined false) → finish o s r = .next t → SeqInv t := by
    rintro o r hr ⟨⟩
    exact (complete_keeps (P := Lined false) (fun _ _ hu => hu) (fun _ _ _ hu => hu) (fun _ _ hu => hu)
      h hr).seqInv
  have hword : ∀ tag byte req, (xmitWord tag byte req s).Ends (Lined false) := fun _ _ _ =>
    xmitWord_ends (fun _ hu => hu) (fun _ _ _ _ _ hu => hu.word ..) h
  cases i with
  | wrcmd c => exact key _ _ (hword ..) he
  | wrdata byte => exact key _ _ (hword ..) he
  | delay n => exact key _ (.done (wait n s)) (h.wait n) he
  | csen => exact key _ _ (csEnable_lined h) he
  | csdis => exact key _ _ (csDisable_lined h) he
  | preset => exact key _ _ (presetBody_lined h) he
  | initseq => cases he; exact initseq_keeps_seqInv h _
  | setpin pin l => exact key _ _ (h.setPin pin l) he
  | _ => simp [Instr.opcode] at hi

/-- The operations of the other sub-units touch neither SEQ nor the clock. -/
theorem exec_keeps_seqInv {i : Instr} {t : State} (h : Lined false s) (he : exec i s = .next t) :
    SeqInv t := by
  rcases opcode_unit i.opcode with hi | hi | hi | hi
  · exact exec_seq_keeps_seqInv h hi he
  · rw [exec_can_changes hi he]; exact Lined.seqInv h
  · rw [exec_rgb_changes hi he]; exact Lined.seqInv h
  · rw [exec_blit_changes hi he]; exact Lined.seqInv h

end

/-- Settles O49: where HOST steps there is no fault, so INITSEQ is not under way. -/
theorem stepKeepsSequencerConsistent : Obligations.StepKeepsSequencerConsistent := by
  intro s t hs h
  have hu : s.fault = none → Lined false (atTurn s) := fun hf => by
    simpa [Lined] using hs.lined hf
  obtain ⟨-, ⟨i, hf, -, -, he⟩ | ⟨c, n, hf, -, -, rfl⟩ | ⟨a, ha, rfl⟩⟩ := step_cases h
  · exact exec_keeps_seqInv (hu hf) he
  · exact Lined.seqInv (s := raiseFault c n (atTurn s)) (hu hf)
  · rw [(agentStep_atTurn_ran ha).only]
    exact { hs with }

end Sys2Proof.Machine
end

section
/-! PROOFS. Family 10_state: invariants that the other agents share, and CANQ (O50). -/

namespace Sys2Proof.Machine

/-! ### Invariants of CANQ and of RGBTC, which the other agents' steps must keep too -/

/-- `P` speaks of the parameters, CANQ, RGBTC and whether INITSEQ has completed, and is kept by every enabled
step of CANENV and SCAN. -/
structure AgentsKeep (P : State → Prop) : Prop where
  host : ∀ s t : State, t.cfg = s.cfg → t.can = s.can → t.rgb = s.rgb →
    (s.seq.seqDone = true → t.seq.seqDone = true) → P s → P t
  can : ∀ e s, P s → canEnabled s = true → P (canStep e s)
  scan : ∀ s, P s → scanEnabled s = true → P (scanStep s)

/-- `P` is also kept by what the operations of CANQ, RGBTC and BLIT do past their checks. -/
structure OperationsKeep (P : State → Prop) : Prop extends AgentsKeep P where
  install : ∀ c s, c.wf = true → s.can.tried = false → c.rxqDepth ≠ 0 → P s →
    P (installOutcome c (markTried s))
  receive : ∀ s, P s → P (receive s)
  alerts : ∀ s, P s → P (takeAlerts s)
  plane : ∀ c s, c.wf = true → s.rgb.phase = .unconfigured → geomOk s.cfg c = true →
    s.seq.seqDone = true → P s → P (planeOutcome c s)
  light : ∀ req s, s.rgb.phase = .running → P s → P (setBacklight (backlightDuty s.cfg req) s)
  copy : ∀ w px ws s, s.rgb.phase = .running →
    gather s.mem (transferPlan s.cfg s.rgb.hRes.toNat w px) = .ok ws → P s →
    P (copyBytes ws.length ws s)

section
variable {P : State → Prop} {s t : State}

theorem AgentsKeep.draw (hP : AgentsKeep P) (h : P s) : P (afterDraw s) := hP.host s _ rfl rfl rfl id h

theorem AgentsKeep.ran (hP : AgentsKeep P) (hr : OthersRan s t) (h : P s) : P t :=
  hr.keeps (P := P) (fun _ => hP.draw) hP.can hP.scan h

theorem AgentsKeep.others (hP : AgentsKeep P) (h : P s) : P (letOthersStep s) :=
  hP.ran (letOthersStep_ran s) h

theorem AgentsKeep.complete (hP : AgentsKeep P) {n : Nat} {r : Sub} (h : P s) (hr : r.Ends P) :
    P (complete s n r) :=
  complete_keeps (P := P) (fun _ u => hP.host u _ rfl rfl rfl id) (fun _ _ u => hP.host u _ rfl rfl rfl id)
    (fun _ u => hP.host u _ rfl rfl rfl id) h hr

/-- BLIT's operations write their own state, and pixels where every check has passed. -/
theorem OperationsKeep.blitBody (hP : OperationsKeep P) (w : Window) (px : Nat) (h : P s) :
    (blitBody w px s).Ends P := by
  rcases blitBody_cases w px s with ⟨-, h1⟩ | ⟨-, -, h1⟩ | ⟨-, -, -, h1⟩ | ⟨a, -, -, -, -, h1⟩
    | ⟨ws, hrun, -, -, hg, h1⟩ <;> rw [h1]
  · exact h
  · exact h
  · exact h
  · exact h
  · exact hP.copy w px ws (countBlit s) hrun hg (hP.host s _ rfl rfl rfl id h)

theorem OperationsKeep.allocOutcome (hP : OperationsKeep P) (vw vh size : Nat) (h : P s) :
    P (allocOutcome vw vh size s) := by
  obtain ⟨r, b, d, n, sc, e⟩ := allocOutcome_only vw vh size s
  rw [e]
  exact hP.host s _ rfl rfl rfl id h

/-- Every operation keeps `P`: past its checks by the keeping of its own effect, else by the rest. -/
theorem OperationsKeep.exec (hP : OperationsKeep P) {i : Instr} (hw : i.wf = true) (h : P s)
    (he : exec i s = .next t) : P t := by
  have key : ∀ {r : Sub}, finish i.opcode s r = .next t → r.Ends P → P t := by
    rintro r ⟨⟩ hr
    exact hP.complete h hr
  rcases opcode_unit i.opcode with hi | hi
  · obtain ⟨r, he', hr⟩ := exec_seq_forward (P := P) (fun _ => hP.draw) (fun _ => hP.others)
      (fun u n q hq => hP.host u (u.withSeq n q) rfl rfl rfl hq.done) hi h
    exact key (he' ▸ he) hr
  · cases i with
    | cancfg c =>
      refine key he (.ite (fun _ => trivial) fun ht => .ite (fun _ => trivial) fun hd => ?_)
      exact hP.install c s hw (by simpa using ht) hd h
    | canrecv => exact key (r := .done _) he (hP.receive s h)
    | canalrt => exact key (r := .done _) he (hP.alerts s h)
    | dpcfg c =>
      refine key he (.ite (fun _ => trivial) fun hp => .ite (fun _ => trivial) fun hg =>
        .ite (fun _ => h) fun hd => ?_)
      exact hP.plane c s hw (by simpa using hp) (by simpa using hg) (by simpa using hd) h
    | blset req =>
      refine key he (.ite (fun _ => trivial) fun _ => .ite (fun _ => h) fun hp => ?_)
      exact hP.light req s (by simpa using hp) h
    | bufalloc vw vh bpp f =>
      refine key he (.ite (fun _ => trivial) fun _ => .ite (fun _ => trivial) fun _ =>
        .ite (fun _ => trivial) fun _ => .ite (fun _ => trivial) fun _ => ?_)
      exact hP.allocOutcome _ _ _ h
    | flushreg vw vh ox oy rot =>
      refine key he (.ite (fun _ => trivial) fun _ => .ite (fun _ => trivial) fun _ =>
        .ite (fun _ => h) fun _ => .ite (fun _ => h) fun _ => .ite (fun _ => trivial) fun _ => ?_)
      exact hP.host s _ rfl rfl rfl id h
    | flush x1 y1 x2 y2 px =>
      refine key he (.ite (fun _ => h) fun _ => .ite (fun _ => h) fun _ => .ite (fun _ => h) fun _ => ?_)
      exact (hP.blitBody _ _ h).andThen (fun _ => hP.others) fun u => hP.host u _ rfl rfl rfl id
    | blit xs xe ys ye px => exact key he (hP.blitBody _ _ h)
    | _ => simp [Instr.opcode] at hi

/-- So does every step of the machine. -/
theorem OperationsKeep.step (hP : OperationsKeep P) (h : P s) (hs : step s = .next t) : P t := by
  have hu : P (atTurn s) := hP.ran (afterChoice_ran _ s) h
  obtain ⟨-, ⟨i, -, -, hi, he⟩ | ⟨c, n, -, -, -, rfl⟩ | ⟨a, ha, rfl⟩⟩ := step_cases hs
  · exact hP.exec (decode_eq_instr hi).1 hu he
  · exact hP.host (atTurn s) _ rfl rfl rfl id hu
  · exact hP.ran (agentStep_atTurn_ran ha) h

end

/-! ### CANQ -/

theorem CanInv.of_can_eq {s t : State} (h : CanInv s) (he : t.can = s.can) : CanInv t := by
  constructor <;> rw [he]
  exacts [h.installed_means_tried, h.rxq_bounded, h.txq_empty, h.disabled_alerts_clear,
    h.no_queue_uninstalled, h.depth_positive, h.drops_mean_running]

/-- Raising an alert sets no disabled bit. -/
theorem raised_alert_enabled {status enabled : BitVec 3} (h : status &&& ~~~ enabled = 0#3)
    (mask : BitVec 3) : (status ||| (enabled &&& mask)) &&& ~~~ enabled = 0#3 := by
  ext k hk
  have := congrArg (fun v => v.getLsbD k) h
  simp [hk] at this
  simp
  grind

section
variable {s : State}

theorem CanInv.raiseAlert (h : CanInv s) (a : Alert) : CanInv { s with can := raiseAlert a s.can } :=
  { h with disabled_alerts_clear := raised_alert_enabled h.disabled_alerts_clear a.mask }

theorem canEnabled_iff (s : State) : canEnabled s = true ↔ s.can.phase = .running := by
  simp [canEnabled]

/-- R185, R187: a frame joins the queue only where there is a place, and is dropped only while running. -/
theorem CanInv.canStep (h : CanInv s) (hc : canEnabled s = true) (e : CanEvent) :
    CanInv (canStep e s) := by
  have hrun := (canEnabled_iff s).mp hc
  cases e with
  | busErr => exact h.raiseAlert .busError
  | errPass => exact h.raiseAlert .errorPassive
  | rx f =>
    unfold Machine.canStep canReceive
    simp only
    split
    · split
      · rename_i hplace
        exact { h with
          rxq_bounded := by simpa using hplace
          no_queue_uninstalled := fun hu => by simp [hrun] at hu }
      · have hdrop : CanInv { s with can := { s.can with dropped := s.can.dropped + 1 } } :=
          { h with drops_mean_running := fun _ => hrun }
        exact hdrop.raiseAlert .queueFull
    · exact h

/-- R181: a driver is installed with the depth asked for and with empty queues. -/
theorem CanInv.installCan (h : CanInv s) (ht : s.can.tried = true) (hp : s.can.phase = .uninstalled)
    {c : BusConfig} (hw : c.wf = true) (hd : c.rxqDepth ≠ 0) : CanInv (installCan c s) := by
  have hfit : c.rxqDepth < 2 ^ 16 := by simp [BusConfig.wf, fits] at hw; omega
  refine { h with
    installed_means_tried := fun _ => ht
    rxq_bounded := Nat.zero_le _
    txq_empty := rfl
    disabled_alerts_clear := BitVec.zero_and
    no_queue_uninstalled := fun _ => rfl
    depth_positive := fun _ => ?_
    drops_mean_running := fun hdrop => ?_ }
  · show 0 < (BitVec.ofNat 16 c.rxqDepth).toNat
    rw [BitVec.toNat_ofNat, Nat.mod_eq_of_lt hfit]
    omega
  · have hrun := h.drops_mean_running hdrop
    simp [hp] at hrun

theorem CanInv.startCan (h : CanInv s) (hp : s.can.phase = .installed) : CanInv (startCan s) :=
  have hne : s.can.phase ≠ .uninstalled := by simp [hp]
  { h with
    installed_means_tried := fun _ => h.installed_means_tried hne
    no_queue_uninstalled := nofun
    depth_positive := fun _ => h.depth_positive hne
    drops_mean_running := fun _ => rfl }

/-- CANCFG runs once, so it begins with no driver. -/
theorem CanInv.installOutcome (h : CanInv s) (ht : s.can.tried = false) {c : BusConfig}
    (hw : c.wf = true) (hd : c.rxqDepth ≠ 0) : CanInv (installOutcome c (markTried s)) := by
  have hp : s.can.phase = .uninstalled := by
    by_contra hn
    simp [h.installed_means_tried hn] at ht
  have hm : CanInv (afterDraw (markTried s)) := { h with installed_means_tried := fun _ => rfl }
  have hi : CanInv (afterDraw (Machine.installCan c (afterDraw (markTried s)))) :=
    (hm.installCan rfl hp hw hd).of_can_eq rfl
  unfold Machine.installOutcome
  split
  · unfold startOutcome
    split
    · exact (hi.startCan rfl).of_can_eq rfl
    · exact hi.of_can_eq rfl
  · exact hm.of_can_eq rfl

/-- R190: CANRECV shortens the queue or leaves it. -/
theorem CanInv.receive (h : CanInv s) : CanInv (receive s) := by
  have hframe : ∀ f fs, s.can.rxq = f :: fs → s.can.phase ≠ .uninstalled →
      CanInv (recvFrame f fs s) := by
    intro f fs hq hp
    have hlen : fs.length + 1 ≤ s.can.rxqDepth.toNat := by simpa [hq] using h.rxq_bounded
    exact { h with
      rxq_bounded := Nat.le_of_succ_le hlen
      no_queue_uninstalled := fun hu => absurd hu hp }
  unfold Machine.receive
  split
  · exact h.of_can_eq rfl
  · exact h.of_can_eq rfl
  · exact h.of_can_eq rfl
  · rename_i hp hq; exact hframe _ _ hq (by simp [hp])
  · rename_i hp hq; exact hframe _ _ hq (by simp [hp])

theorem CanInv.takeAlerts (h : CanInv s) : CanInv (takeAlerts s) :=
  { h with disabled_alerts_clear := BitVec.zero_and }

end

theorem canInv_agentsKeep : AgentsKeep CanInv where
  host _ _ _ hc _ _ h := h.of_can_eq hc
  can e _ h hc := h.canStep hc e
  scan s h _ := h.of_can_eq (by rw [scanStep_only s])

theorem CanInv.planeOutcome {s : State} (h : CanInv s) (c : PlaneConfig) : CanInv (planeOutcome c s) := by
  have h1 : CanInv (letOthersStep (afterDraw s)) := canInv_agentsKeep.others (h.of_can_eq rfl)
  unfold Machine.planeOutcome
  simp only
  split
  · have h2 : CanInv (startPlane c (letOthersStep (afterDraw s))) := h1.of_can_eq rfl
    exact (canInv_agentsKeep.others h2).of_can_eq rfl
  · have h2 : CanInv (failPlane (letOthersStep (afterDraw s))) := h1.of_can_eq rfl
    exact (canInv_agentsKeep.others h2).of_can_eq rfl

theorem canInv_operationsKeep : OperationsKeep CanInv where
  toAgentsKeep := canInv_agentsKeep
  install _ _ hw ht hd h := h.installOutcome ht hw hd
  receive _ h := h.receive
  alerts _ h := h.takeAlerts
  plane c _ _ _ _ _ h := h.planeOutcome c
  light _ _ _ h := h.of_can_eq rfl
  copy _ _ ws s _ _ h :=
    copyBytes_keep (P := CanInv) (fun _ => canInv_agentsKeep.draw) (fun _ => canInv_agentsKeep.others) _ ws
      (fun _ _ _ hu => hu.of_can_eq rfl) s h

/-- Settles O50: every effect on CANQ keeps its invariant, and the rest of a step does not touch it. -/
theorem stepKeepsCanQueueBounded : Obligations.StepKeepsCanQueueBounded :=
  fun _ _ h hs => canInv_operationsKeep.step h hs

end Sys2Proof.Machine
end

section
/-! PROOFS. Family 10_state: RGBTC (O51) and reset (O53, O60). -/

namespace Sys2Proof.Machine

/-! ### RGBTC -/

/-- The bytes of a whole panel: the size of each frame buffer and of each frame (43_rgb_timing.md R215). -/
def panelBytes (p : Params) : Nat := frameBytes p.panelW p.panelH p.bytesPP

/-- R263: the index of a byte inside the panel lies inside the frame buffer. -/
theorem fbIndex_lt {w h b x y j : Nat} (hx : x < w) (hy : y < h) (hj : j < b) :
    fbIndex w b x y j < frameBytes w h b := by
  unfold fbIndex frameBytes
  have hrow : y * w + x + 1 ≤ w * h := by
    calc y * w + x + 1 ≤ y * w + w := by omega
      _ = w * (y + 1) := by ring
      _ ≤ w * h := Nat.mul_le_mul_left w hy
  calc (y * w + x) * b + j < (y * w + x) * b + b := by omega
    _ = (y * w + x + 1) * b := by ring
    _ ≤ w * h * b := Nat.mul_le_mul_right b hrow

/-- A gathered byte goes to a destination of the plan. -/
theorem gather_destination {m : Memory} {plan : List (Nat × Nat)} {ws : List (Nat × Byte)}
    (h : gather m plan = .ok ws) {w : Nat × Byte} (hw : w ∈ ws) : ∃ q ∈ plan, q.2 = w.1 := by
  rcases gather_cases m plan with ⟨ws', hg, hmap⟩ | ⟨_, _, _, _, _, hg, _⟩
  · rw [h] at hg
    cases hg
    have hmem : (w.1, some w.2) ∈ ws.map fun v => (v.1, some v.2) := List.mem_map_of_mem hw
    rw [hmap] at hmem
    obtain ⟨q, hq, e⟩ := List.mem_map.mp hmem
    exact ⟨q, hq, congrArg Prod.fst e⟩
  · rw [h] at hg
    cases hg

/-- A further write adds its byte to what its index has shown, and to no other. -/
theorem seenAt_added (ss : ScanSeen) (i a : Nat) (b : Byte) :
    seenAt { ss with added := ss.added ++ [(i, b)] } a
      = seenAt ss a ++ if i = a then [some b] else [] := by
  by_cases h : i = a <;> simp [seenAt, h]

theorem fbCells_fbWrite_ne {k i j : Nat} (h : j ≠ k) (b : Byte) (r : RgbState) :
    fbCells (fbWrite k i b r) j = fbCells r j := by
  simp [fbCells, fbWrite, Ne.symm h]

section
variable {s t : State}

theorem RgbInv.of_rgb_eq (h : RgbInv s) (hc : t.cfg = s.cfg) (hr : t.rgb = s.rgb)
    (hd : s.seq.seqDone = true → t.seq.seqDone = true) : RgbInv t := by
  constructor <;> rw [hr] <;> try rw [hc]
  exacts [fun hp => hd (h.running_after_seq hp), h.geometry, h.buffers_counted, h.no_buffers_else,
    h.buffer_size, h.buffer_form, h.open_means_running, h.shown_exists, h.shown_was_seen, h.frames_full,
    h.duty_bounded, h.lit_means_running]

theorem RgbInv.closed (h : RgbInv s) (hp : s.rgb.phase ≠ .running) : s.rgb.scanOpen = false :=
  Bool.eq_false_iff.mpr fun ho => hp (h.open_means_running ho)

theorem RgbInv.unlit (h : RgbInv s) (hp : s.rgb.phase ≠ .running) : s.rgb.blSet = false :=
  Bool.eq_false_iff.mpr fun hl => hp (h.lit_means_running hl)

/-- R218: a frame begins by seeing every byte of an existing buffer. -/
theorem RgbInv.frameBegin (h : RgbInv s) (hp : s.rgb.phase = .running) : RgbInv (frameBegin s) := by
  obtain ⟨hcount, hpos⟩ := h.buffers_counted hp
  obtain ⟨sel, n, sc, -, hsel, e⟩ := frameBegin_spec s
  rw [e]
  exact { h with
    open_means_running := fun _ => hp
    shown_exists := fun _ => by rw [hcount] at hpos ⊢; exact hsel hpos
    shown_was_seen := fun _ _ => List.mem_cons_self }

/-- R219: a frame ends with as many bytes as the panel has. -/
theorem RgbInv.frameEnd (h : RgbInv s) : RgbInv (frameEnd s) := by
  obtain ⟨f, n, sc, hlen, e⟩ := frameEnd_spec s
  rw [e]
  refine { h with
    open_means_running := nofun
    shown_exists := nofun
    shown_was_seen := nofun
    frames_full := fun g hg => ?_ }
  rcases List.mem_append.mp hg with hg | hg
  · exact h.frames_full g hg
  · rw [List.mem_singleton.mp hg]; exact hlen

theorem RgbInv.scanStep (h : RgbInv s) (he : scanEnabled s = true) : RgbInv (scanStep s) := by
  unfold Machine.scanStep
  split
  · exact h.frameEnd
  · rename_i hclosed
    exact h.frameBegin (by simpa [scanEnabled, hclosed] using he)

theorem rgbInv_agentsKeep : AgentsKeep RgbInv where
  host _ _ hc _ hr hd h := h.of_rgb_eq hc hr hd
  can e s h _ := by rw [canStep_only e s]; exact h.of_rgb_eq rfl rfl id
  scan _ h he := h.scanStep he

/-- R214: a geometry that is accepted is the panel's, with a buffer at least. -/
theorem geomOk_panel {p : Params} {c : PlaneConfig} (h : geomOk p c = true) :
    c.hRes = p.panelW ∧ c.vRes = p.panelH ∧ 1 ≤ c.fbCount := by
  simp only [geomOk, Bool.and_eq_true, decide_eq_true_eq] at h
  omega

/-- The numbers a decoded DPCFG gives are what its registers hold. -/
theorem planeConfig_stored {c : PlaneConfig} (h : c.wf = true) :
    (BitVec.ofNat 16 c.hRes).toNat = c.hRes ∧ (BitVec.ofNat 16 c.vRes).toNat = c.vRes
      ∧ (BitVec.ofNat 8 c.fbCount).toNat = c.fbCount := by
  simp only [PlaneConfig.wf, fits, Bool.and_eq_true, decide_eq_true_eq] at h
  simp only [BitVec.toNat_ofNat]
  omega

/-- R212, R214, R215: the data plane starts after INITSEQ, with the panel's geometry and empty buffers of
the panel's size. -/
theorem RgbInv.startPlane (h : RgbInv s) {c : PlaneConfig} (hw : c.wf = true)
    (hp : s.rgb.phase = .unconfigured) (hg : geomOk s.cfg c = true) (hd : s.seq.seqDone = true) :
    RgbInv (startPlane c s) := by
  have hclosed := h.closed (by simp [hp])
  obtain ⟨hres, vres, hcount⟩ := geomOk_panel hg
  obtain ⟨hstored, vstored, cstored⟩ := planeConfig_stored hw
  have hlen : (Machine.startPlane c s).rgb.fb.length = c.fbCount := List.length_replicate
  have hbuf : ∀ f ∈ (Machine.startPlane c s).rgb.fb, f = ⟨panelBytes s.cfg, []⟩ := fun f hf => by
    rw [List.eq_of_mem_replicate hf, hres, vres]
    rfl
  exact { h with
    running_after_seq := fun _ => hd
    geometry := fun _ => ⟨hstored.trans hres, vstored.trans vres⟩
    buffers_counted := fun _ => ⟨hlen.trans cstored.symm, hlen ▸ hcount⟩
    no_buffers_else := fun hn => absurd rfl hn
    buffer_size := fun f hf => congrArg FrameBuf.size (hbuf f hf)
    buffer_form := fun f hf => by rw [hbuf f hf]; exact ⟨rfl, rfl⟩
    open_means_running := fun _ => rfl
    shown_exists := fun ho => absurd (hclosed.symm.trans ho) (by decide)
    shown_was_seen := fun ho => absurd (hclosed.symm.trans ho) (by decide)
    lit_means_running := fun _ => rfl }

theorem RgbInv.failPlane (h : RgbInv s) (hp : s.rgb.phase = .unconfigured) : RgbInv (failPlane s) := by
  have hidle : s.rgb.phase ≠ .running := by simp [hp]
  have hclosed := h.closed hidle
  have hunlit := h.unlit hidle
  exact { h with
    running_after_seq := nofun
    geometry := nofun
    buffers_counted := nofun
    no_buffers_else := fun _ => h.no_buffers_else hidle
    open_means_running := fun ho => absurd (hclosed.symm.trans ho) (by decide)
    lit_means_running := fun hl => absurd (hunlit.symm.trans hl) (by decide) }

theorem RgbInv.planeOutcome (h : RgbInv s) {c : PlaneConfig} (hw : c.wf = true)
    (hp : s.rgb.phase = .unconfigured) (hg : geomOk s.cfg c = true) (hd : s.seq.seqDone = true) :
    RgbInv (planeOutcome c s) := by
  have hA := rgbInv_agentsKeep
  have h1 : RgbInv (letOthersStep (afterDraw s)) := hA.others (hA.draw h)
  unfold Machine.planeOutcome
  simp only
  split
  · have h2 := hA.others (h1.startPlane hw (by simpa using hp) (by simpa using hg) (by simpa using hd))
    exact h2.of_rgb_eq rfl rfl id
  · exact (hA.others (h1.failPlane (by simpa using hp))).of_rgb_eq rfl rfl id

/-- R224: the duty of a request is at most BL_FULL. -/
theorem backlightDuty_le (p : Params) (req : Nat) : backlightDuty p req ≤ p.blFull :=
  Nat.div_le_of_le_mul (Nat.mul_le_mul_right _ (Nat.min_le_right _ _))

theorem RgbInv.setBacklight (h : RgbInv s) (hp : s.rgb.phase = .running) (req : Nat) :
    RgbInv (setBacklight (backlightDuty s.cfg req) s) :=
  { h with
    duty_bounded := fun _ => backlightDuty_le s.cfg req
    lit_means_running := fun _ => hp }

/-- A buffer after a write to buffer 0 is one from before, or one from before with the byte written. -/
theorem mem_fb_fbWrite {r : RgbState} {i : Nat} {b : Byte} {f : FrameBuf}
    (hf : f ∈ (fbWrite 0 i b r).fb) :
    f ∈ r.fb ∨ ∃ g ∈ r.fb, f = { g with cells := g.cells.write i b } := by
  unfold fbWrite at hf
  cases hr : r.fb with
  | nil => simp [hr] at hf
  | cons g gs =>
    simp only [hr, List.modify_zero_cons, List.mem_cons] at hf
    rcases hf with rfl | hf
    · exact .inr ⟨g, List.mem_cons_self, rfl⟩
    · exact .inl (List.mem_cons_of_mem g hf)

/-- R258: a byte written to the shown buffer while a frame is open is seen. -/
theorem fbWrite_shown {r : RgbState} {i a : Nat} {b : Byte} (ho : r.scanOpen = true)
    (hsel : r.scanSel < r.fb.length)
    (hseen : (fbCells r r.scanSel).read a ∈ seenAt r.scanSeen a) :
    (fbCells (fbWrite 0 i b r) r.scanSel).read a ∈ seenAt (fbWrite 0 i b r).scanSeen a := by
  by_cases h0 : r.scanSel = 0
  · have hss : (fbWrite 0 i b r).scanSeen = { r.scanSeen with added := r.scanSeen.added ++ [(i, b)] } := by
      simp [fbWrite, ho, h0]
    rw [hss, h0, fbCells_fbWrite_read _ _ _ _ (by omega)]
    rw [seenAt_added]
    by_cases ha : a = i
    · simp [ha]
    · rw [if_neg ha]
      exact List.mem_append_left _ (h0 ▸ hseen)
  · have hss : (fbWrite 0 i b r).scanSeen = r.scanSeen := by simp [fbWrite, h0]
    rw [hss, fbCells_fbWrite_ne h0]
    exact hseen

/-- R258, R263: a byte written inside the panel stays inside the buffer, and is seen. -/
theorem RgbInv.fbWrite (h : RgbInv s) {i : Nat} (hi : i < panelBytes s.cfg) (b : Byte) :
    RgbInv { s with rgb := fbWrite 0 i b s.rgb } := by
  have hlen : (Machine.fbWrite 0 i b s.rgb).fb.length = s.rgb.fb.length := by simp [Machine.fbWrite]
  refine { h with
    buffers_counted := fun hp => ?_
    no_buffers_else := fun hp => ?_
    buffer_size := fun f hf => ?_
    buffer_form := fun f hf => ?_
    shown_exists := fun ho => hlen ▸ h.shown_exists ho
    shown_was_seen := fun ho a => fbWrite_shown ho (h.shown_exists ho) (h.shown_was_seen ho a) }
  · rw [hlen]; exact h.buffers_counted hp
  · exact List.length_eq_zero_iff.mp (by rw [hlen, h.no_buffers_else hp]; rfl)
  · rcases mem_fb_fbWrite hf with hf | ⟨g, hg, rfl⟩
    · exact h.buffer_size f hf
    · exact h.buffer_size g hg
  · rcases mem_fb_fbWrite hf with hf | ⟨g, hg, rfl⟩
    · exact h.buffer_form f hf
    · obtain ⟨hwf, hunder⟩ := h.buffer_form g hg
      have hin : i < g.size := by rw [h.buffer_size g hg]; exact hi
      exact ⟨Memory.wf_write i b hwf, Memory.under_write b hin hunder⟩

/-- The gathered bytes of a clamped window lie inside the panel. -/
theorem RgbInv.destination_lt (h : RgbInv s) (hp : s.rgb.phase = .running) {w : Window} {px : Nat}
    {ws : List (Nat × Byte)} (hg : gather s.mem (transferPlan s.cfg s.rgb.hRes.toNat w px) = .ok ws) :
    ∀ v ∈ ws, v.1 < panelBytes s.cfg := by
  intro v hv
  obtain ⟨q, hq, e⟩ := gather_destination hg hv
  obtain ⟨x, y, j, -, hx, -, hy, hj, rfl⟩ := mem_transferPlan.mp hq
  rw [← e, (h.geometry hp).1]
  exact fbIndex_lt (hx.trans_le (Nat.min_le_right _ _)) (hy.trans_le (Nat.min_le_right _ _)) hj

/-- The copy keeps the invariant, whatever the other agents do between its writes. -/
theorem RgbInv.copyBytes (h : RgbInv s) {ws : List (Nat × Byte)} (hw : ∀ v ∈ ws, v.1 < panelBytes s.cfg)
    (n : Nat) : RgbInv (copyBytes n ws s) :=
  (copyBytes_keep (P := fun u => RgbInv u ∧ u.cfg = s.cfg)
    (fun _ hu => ⟨rgbInv_agentsKeep.draw hu.1, hu.2⟩)
    (fun u hu => ⟨rgbInv_agentsKeep.others hu.1, (letOthersStep_cfg u).trans hu.2⟩) n ws
    (fun v hv _ hu => ⟨hu.1.fbWrite (hu.2 ▸ hw v hv) v.2, hu.2⟩) s ⟨h, rfl⟩).1

end

theorem rgbInv_operationsKeep : OperationsKeep RgbInv where
  toAgentsKeep := rgbInv_agentsKeep
  install c s _ _ _ h := by
    obtain ⟨r, ca, d, n, sc, e⟩ := installOutcome_only c (markTried s)
    rw [e]
    exact h.of_rgb_eq rfl rfl id
  receive s h := by
    obtain ⟨r, f, ca, e⟩ := receive_only s
    rw [e]
    exact h.of_rgb_eq rfl rfl id
  alerts _ h := h.of_rgb_eq rfl rfl id
  plane _ _ hw hp hg hd h := h.planeOutcome hw hp hg hd
  light req _ hp h := h.setBacklight hp req
  copy _ _ ws _ hp hg h := h.copyBytes (h.destination_lt hp hg) ws.length

/-- Settles O51: every effect on RGBTC keeps its invariant, and the rest of a step does not touch it. -/
theorem stepKeepsFrameBuffersInBounds : Obligations.StepKeepsFrameBuffersInBounds :=
  fun _ _ h hs => rgbInv_operationsKeep.step h hs

/-! ### Reset -/

/-- Settles O60: block reset gives each sub-unit its reset state but for the elements that are X there. -/
theorem blockResetRestoresTheResetTable : Obligations.BlockResetRestoresTheResetTable := by
  rintro px x s t rfl
  and_intros <;> rfl

section
variable (x : State) (p : Params) (d : List Word) (m : Memory) (sc : List Nat)

/-- A state right after reset, the elements that reset leaves X as they are in `x`. -/
def launched : State := withUnspecified x (State.launch p d m sc)

theorem launched_hostInv : HostInv (launched x p d m sc) where
  pc_in_program := Nat.zero_le _
  fault_at_pc := nofun
  one_stop := .inl rfl
  diag_holds_failures := nofun

theorem launched_seqInv : SeqInv (launched x p d m sc) where
  not_busy := rfl
  initseq_open_only_at_fault := nofun
  ti_only_in_initseq h := absurd rfl h
  low_iff_timed := ⟨nofun, fun h => absurd rfl h⟩
  low_in_past := nofun
  ready_means_released h := absurd rfl h
  ready_soon := nofun
  settle_soon := Nat.zero_le _
  held_means_driven := nofun

theorem launched_canInv : CanInv (launched x p d m sc) where
  installed_means_tried h := absurd rfl h
  rxq_bounded := Nat.zero_le _
  txq_empty := rfl
  disabled_alerts_clear := BitVec.zero_and
  no_queue_uninstalled _ := rfl
  depth_positive h := absurd rfl h
  drops_mean_running h := absurd h (Nat.lt_irrefl 0)

theorem launched_rgbInv : RgbInv (launched x p d m sc) where
  running_after_seq := nofun
  geometry := nofun
  buffers_counted := nofun
  no_buffers_else _ := rfl
  buffer_size := nofun
  buffer_form := nofun
  open_means_running := nofun
  shown_exists := nofun
  shown_was_seen := nofun
  frames_full := nofun
  duty_bounded := nofun
  lit_means_running := nofun

theorem launched_blitInv : BlitInv (launched x p d m sc) where
  allocated_legal := nofun
  aborted_iff_failed := ⟨nofun, nofun⟩
  registered_means_allocated := nofun
  registered_canvas := nofun
  counted_once := rfl
  log_counts := rfl
  completions_registered h := absurd h (Nat.lt_irrefl 0)

theorem launched_invariants {m : Memory} (hwf : m.wf = true) (hin : Memory.under addrSpace m = true) :
    HostInv (launched x p d m sc) ∧ MemInv (launched x p d m sc) ∧ SeqInv (launched x p d m sc)
      ∧ CanInv (launched x p d m sc) ∧ RgbInv (launched x p d m sc) ∧ BlitInv (launched x p d m sc) :=
  ⟨launched_hostInv .., ⟨hwf, hin⟩, launched_seqInv .., launched_canInv .., launched_rgbInv ..,
    launched_blitInv ..⟩

end

/-- Settles O53: State.reset is a launch state whose X elements are its own. -/
theorem resetHasTheInvariants : Obligations.ResetHasTheInvariants := by
  refine ⟨?_, launched_invariants State.reset Config.illustrative [] [] (m := []) rfl rfl⟩
  rintro x s p d m sc hwf hin rfl
  exact launched_invariants x p d sc hwf hin

end Sys2Proof.Machine
end

section
/-! PROOFS. Family 20_memory: the CAN side and the display side share no state (O33).

An operation of the display side is run twice, from two states that differ in CANQ alone. `Twin` says what
the two runs have in common at every moment; each operation of SEQ, RGBTC and BLIT keeps it. -/

namespace Sys2Proof.Machine

/-- `s` with CANQ at `c`. -/
def State.withCan (s : State) (c : CanState) : State := { s with can := c }

/-- `s` with SEQ, RGBTC, BLIT, system memory and the clock replaced. -/
def State.withDisplay (s : State) (q : SeqState) (r : RgbState) (b : BlitState) (m : Memory) (n : Nat) :
    State :=
  { s with seq := q, rgb := r, blit := b, mem := m, now := n }

/-! ### SCAN beside CANQ -/

theorem scanByte_withCan (i : Nat) (s : State) (c : CanState) :
    scanByte i (s.withCan c) = ((scanByte i s).1, (scanByte i s).2.withCan c) := by
  have hseen : seenAt (s.withCan c).rgb.scanSeen i = seenAt s.rgb.scanSeen i := rfl
  have hdraw : drawVal (s.withCan c) = drawVal s := rfl
  unfold scanByte
  simp only [hseen, hdraw]
  split <;> rfl

theorem scanBytes_withCan (is : List Nat) (c : CanState) :
    ∀ s, scanBytes is (s.withCan c) = ((scanBytes is s).1, (scanBytes is s).2.withCan c) := by
  induction is with
  | nil => intro s; rfl
  | cons i is ih => intro s; simp only [scanBytes, scanByte_withCan, ih]

theorem frameBegin_withCan (s : State) (c : CanState) :
    frameBegin (s.withCan c) = (frameBegin s).withCan c := by
  have hr : (s.withCan c).rgb = s.rgb := rfl
  unfold frameBegin
  simp only [hr]
  split <;> rfl

theorem frameEnd_withCan (s : State) (c : CanState) :
    frameEnd (s.withCan c) = (frameEnd s).withCan c := by
  have hc : (s.withCan c).cfg = s.cfg := rfl
  unfold frameEnd
  simp only [hc, scanBytes_withCan]
  rfl

/-- SCAN does the same whatever CANQ holds. -/
theorem scanStep_withCan (s : State) (c : CanState) :
    scanStep (s.withCan c) = (scanStep s).withCan c := by
  have hr : (s.withCan c).rgb = s.rgb := rfl
  unfold scanStep
  rw [hr]
  split
  · exact frameEnd_withCan s c
  · exact frameBegin_withCan s c

theorem scanStep_can (s : State) : (scanStep s).can = s.can := by rw [scanStep_only s]

theorem scanStep_cfg (s : State) : (scanStep s).cfg = s.cfg := by rw [scanStep_only s]

/-! ### CANENV beside the rest -/

/-- An event of the CAN bus reads the parameters and CANQ, and writes CANQ. -/
theorem canStep_can_congr {s u : State} (hcfg : u.cfg = s.cfg) (hcan : u.can = s.can) (e : CanEvent) :
    (canStep e u).can = (canStep e s).can := by
  cases e <;> simp [canStep, hcfg, hcan]

theorem canStep_withCan (e : CanEvent) (s : State) (c : CanState) :
    canStep e (s.withCan c) = (canStep e s).withCan (canStep e (s.withCan c)).can := by
  cases e <;> rfl

theorem canStep_can_phase (e : CanEvent) (s : State) : (canStep e s).can.phase = s.can.phase := by
  rw [canStep_only e s]

theorem canStep_cfg (e : CanEvent) (s : State) : (canStep e s).cfg = s.cfg := by rw [canStep_only e s]

/-- CANENV does the same whatever the display side, memory and the clock are. -/
theorem canStep_withDisplay (e : CanEvent) (s : State) (q : SeqState) (r : RgbState) (b : BlitState)
    (m : Memory) (n : Nat) :
    canStep e (s.withDisplay q r b m n) = (canStep e s).withDisplay q r b m n := by
  cases e <;> rfl

/-! ### Two runs that differ in CANQ -/

/-- Two runs of an operation, begun in `s₀` and in `s₀` with CANQ at `c₀`, are in `s` and `u`: they
differ in CANQ alone, CAN runs in both or in neither, CANQ is still at `c₀` in the second where CAN does not run,
and only CANENV's own steps have changed CANQ in the first. -/
structure Twin (s₀ : State) (c₀ : CanState) (s u : State) : Prop where
  rest : u = s.withCan u.can
  running : u.can.phase = .running ↔ s.can.phase = .running
  idle : s₀.can.phase ≠ .running → u.can = c₀
  origin : ∃ v, OthersRan s₀ v ∧ v.cfg = s.cfg ∧ v.can = s.can

/-- A write of HOST that neither reads nor writes CANQ, and leaves the parameters. -/
structure CanFree (f : State → State) : Prop where
  withCan : ∀ s c, f (s.withCan c) = (f s).withCan c := by intros; rfl
  cfg : ∀ s, (f s).cfg = s.cfg := by intros; rfl

theorem CanFree.can {f : State → State} (hf : CanFree f) (s : State) : (f s).can = s.can := by
  have h : f s = (f s).withCan s.can := hf.withCan s s.can
  rw [h]
  rfl

/-- Two sub-steps that end the same way, in states that are twins. -/
inductive Sub.Twins (s₀ : State) (c₀ : CanState) : Sub → Sub → Prop where
  | done {s u : State} (h : Twin s₀ c₀ s u) : Sub.Twins s₀ c₀ (.done s) (.done u)
  | raised {s u : State} (h : Twin s₀ c₀ s u) (c : FaultCode) (n : Nat) :
    Sub.Twins s₀ c₀ (.raised s c n) (.raised u c n)
  | refused (q : RefuseReason) : Sub.Twins s₀ c₀ (.refused q) (.refused q)

section
variable {s₀ : State} {c₀ : CanState} {s u : State}

theorem Twin.start (h : c₀.phase = .running ↔ s.can.phase = .running) : Twin s c₀ s (s.withCan c₀) :=
  ⟨rfl, h, fun _ => rfl, s, .refl, rfl, rfl⟩

theorem Twin.eq_withCan (h : Twin s₀ c₀ s u) : ∃ c, u = s.withCan c := ⟨_, h.rest⟩

theorem Twin.write (h : Twin s₀ c₀ s u) {f : State → State} (hf : CanFree f) :
    Twin s₀ c₀ (f s) (f u) where
  rest := by rw [hf.can u, ← hf.withCan s, ← h.rest]
  running := by rw [hf.can, hf.can]; exact h.running
  idle hi := (hf.can u).trans (h.idle hi)
  origin := by rw [hf.cfg, hf.can]; exact h.origin

theorem Twin.draw (h : Twin s₀ c₀ s u) : Twin s₀ c₀ (afterDraw s) (afterDraw u) :=
  h.write {}

theorem Twin.withSeq (h : Twin s₀ c₀ s u) (n : Nat) (q : SeqState) :
    Twin s₀ c₀ (s.withSeq n q) (u.withSeq n q) :=
  h.write (f := (·.withSeq n q)) {}

theorem Twin.withRgb (h : Twin s₀ c₀ s u) (r : RgbState) :
    Twin s₀ c₀ { s with rgb := r } { u with rgb := r } :=
  h.write (f := fun v => { v with rgb := r }) {}

theorem Twin.withBlit (h : Twin s₀ c₀ s u) (b : BlitState) :
    Twin s₀ c₀ { s with blit := b } { u with blit := b } :=
  h.write (f := fun v => { v with blit := b }) {}

theorem Twin.setStatus (h : Twin s₀ c₀ s u) (st : Status) :
    Twin s₀ c₀ (setStatus st s) (setStatus st u) :=
  h.write {}

theorem Twin.reportFailure (h : Twin s₀ c₀ s u) (st : Status) :
    Twin s₀ c₀ (reportFailure st s) (reportFailure st u) :=
  h.write {}

/-- A check that both runs make, with the same answer. -/
theorem Twin.ite {p : Prop} [Decidable p] {a b a' b' : State} (ha : p → Twin s₀ c₀ a a')
    (hb : ¬ p → Twin s₀ c₀ b b') : Twin s₀ c₀ (if p then a else b) (if p then a' else b') := by
  split
  · exact ha ‹_›
  · exact hb ‹_›

theorem Sub.Twins.ite {p : Prop} [Decidable p] {a b a' b' : Sub} (ha : p → Sub.Twins s₀ c₀ a a')
    (hb : ¬ p → Sub.Twins s₀ c₀ b b') :
    Sub.Twins s₀ c₀ (if p then a else b) (if p then a' else b') := by
  split
  · exact ha ‹_›
  · exact hb ‹_›

/-! ### The other agents in both runs -/

/-- Where CAN runs in the first run, it ran when the operation began. -/
theorem Twin.began_running (h : Twin s₀ c₀ s u) (hc : canEnabled s = true) :
    s₀.can.phase = .running := by
  obtain ⟨v, hv, -, hcan⟩ := h.origin
  rw [← hv.can_phase_eq, hcan]
  exact (canEnabled_iff s).mp hc

theorem Twin.canStep (h : Twin s₀ c₀ s u) (hc : canEnabled s = true) (e : CanEvent) :
    Twin s₀ c₀ (canStep e s) (canStep e u) where
  rest := by rw [h.rest]; exact canStep_withCan e s u.can
  running := by rw [canStep_can_phase, canStep_can_phase]; exact h.running
  idle hi := absurd (h.began_running hc) hi
  origin := by
    obtain ⟨v, hv, hcfg, hcan⟩ := h.origin
    have hen : canEnabled v = true := by rw [canEnabled, hcan]; exact hc
    refine ⟨Machine.canStep e v, hv.can e hen, ?_, canStep_can_congr hcfg hcan e⟩
    rw [canStep_cfg, canStep_cfg, hcfg]

theorem Twin.scanStep (h : Twin s₀ c₀ s u) : Twin s₀ c₀ (scanStep s) (scanStep u) :=
  h.write ⟨scanStep_withCan, scanStep_cfg⟩

/-- The schedule asks of CANQ only whether CAN runs (60_exceptions.md R283). -/
theorem Twin.otherSteps_eq (h : Twin s₀ c₀ s u) : otherSteps u = otherSteps s := by
  have hcan : canEnabled u = canEnabled s :=
    Bool.eq_iff_iff.mpr (by rw [canEnabled_iff, canEnabled_iff]; exact h.running)
  have hscan : scanEnabled u = scanEnabled s := by rw [h.rest]; rfl
  rw [otherSteps, otherSteps, hcan, hscan]

theorem Twin.drawVal_eq (h : Twin s₀ c₀ s u) : drawVal u = drawVal s := by rw [h.rest]; rfl

theorem Twin.agentStep (h : Twin s₀ c₀ s u) {a : AgentStep} (ha : a ∈ otherSteps s) :
    Twin s₀ c₀ (agentStep a s) (agentStep a u) := by
  rcases mem_otherSteps.mp ha with ⟨hn, hc⟩ | ⟨rfl, -⟩
  · cases a with
    | canRx =>
      unfold Machine.agentStep
      rw [h.drawVal_eq]
      exact h.draw.canStep hc _
    | canBusErr => exact h.canStep hc .busErr
    | canErrPass => exact h.canStep hc .errPass
    | scan => exact absurd rfl hn
  · exact h.scanStep

theorem Twin.afterChoice (h : Twin s₀ c₀ s u) {α : Type} (as : List α) :
    Twin s₀ c₀ (afterChoice as s) (afterChoice as u) := by
  unfold Machine.afterChoice
  split
  · exact h
  · exact h
  · exact h.draw

theorem Twin.chosen_eq (h : Twin s₀ c₀ s u) {α : Type} (as : List α) : chosen as u = chosen as s := by
  rw [h.rest]; rfl

theorem Twin.otherStep (h : Twin s₀ c₀ s u) : Twin s₀ c₀ (otherStep s) (otherStep u) := by
  unfold Machine.otherStep
  rw [h.otherSteps_eq, h.chosen_eq]
  split
  · exact h
  · rename_i a ha
    exact (h.afterChoice _).agentStep (by simpa using chosen_mem ha)

theorem Twin.othersStep (n : Nat) :
    ∀ {s u : State}, Twin s₀ c₀ s u → Twin s₀ c₀ (othersStep n s) (othersStep n u) := by
  induction n with
  | zero => exact id
  | succ n ih => exact fun h => ih h.otherStep

/-- The other agents step in both runs at the same places, as often, and in the same way. -/
theorem Twin.others (h : Twin s₀ c₀ s u) : Twin s₀ c₀ (letOthersStep s) (letOthersStep u) := by
  unfold letOthersStep
  rw [h.otherSteps_eq, h.drawVal_eq]
  split
  · exact h
  · exact Twin.othersStep _ h.draw

/-! ### Sub-steps in both runs -/

theorem Sub.Twins.andThen {r r' : Sub} {k k' : State → Sub} (h : Sub.Twins s₀ c₀ r r')
    (hk : ∀ s u, Twin s₀ c₀ s u → Sub.Twins s₀ c₀ (k s) (k' u)) :
    Sub.Twins s₀ c₀ (r.andThen k) (r'.andThen k') := by
  cases h with
  | done h => exact hk _ _ h.others
  | raised h c n => exact .raised h c n
  | refused q => exact .refused q

/-- However the sub-steps end, so do the two operations. -/
theorem Sub.Twins.complete {r r' : Sub} (h : Sub.Twins s₀ c₀ r r') (h0 : Twin s₀ c₀ s u) (n : Nat) :
    Twin s₀ c₀ (complete s n r) (complete u n r') := by
  cases h with
  | done h => exact h.write (f := advancePc n) {}
  | raised h c k => exact h.write (f := raiseFault c k) {}
  | refused q => exact h0.write (f := refuse q) {}

/-! ### SEQ -/

theorem Twin.wait (h : Twin s₀ c₀ s u) (n : Nat) : Twin s₀ c₀ (wait n s) (wait n u) := by
  obtain ⟨c, rfl⟩ := h.eq_withCan
  rw [wait_eq, wait_eq]
  exact h.draw.others.withSeq _ _

theorem Twin.sendWord (h : Twin s₀ c₀ s u) (tag : Tag) (b : Byte) (req : Nat) (seen : Bool) :
    Twin s₀ c₀ (sendWord tag b req seen s) (sendWord tag b req seen u) := by
  obtain ⟨c, rfl⟩ := h.eq_withCan
  rw [sendWord_eq, sendWord_eq]
  exact h.draw.others.withSeq _ _

theorem Twin.setCsHeld (h : Twin s₀ c₀ s u) (b : Bool) :
    Twin s₀ c₀ (setCsHeld b s) (setCsHeld b u) :=
  h.write {}

theorem Twin.setPin (h : Twin s₀ c₀ s u) (pin : BitVec 8) (l : Bool) :
    Sub.Twins s₀ c₀ (setPin pin l s) (setPin pin l u) := by
  obtain ⟨c, rfl⟩ := h.eq_withCan
  exact .ite (fun _ => .refused _) fun _ => .done (h.withSeq _ _)

theorem Twin.checkAndSend (h : Twin s₀ c₀ s u) (tag : Tag) (b : Byte) (req : Nat) (seen : Bool) :
    Sub.Twins s₀ c₀ (checkAndSend tag b req seen s) (checkAndSend tag b req seen u) := by
  obtain ⟨c, rfl⟩ := h.eq_withCan
  exact .ite (fun _ => .raised h _ _) fun _ => .ite (fun _ => .raised h _ _) fun _ =>
    .ite (fun _ => .raised h _ _) fun _ => .done (h.sendWord ..)

theorem afterSeen_canFree : CanFree afterSeen where
  withCan s c := by
    have hcs : (s.withCan c).seq.csLevel = s.seq.csLevel := rfl
    unfold afterSeen
    rw [hcs]
    split <;> rfl
  cfg s := by unfold afterSeen; split <;> rfl

theorem Twin.xmitWord (h : Twin s₀ c₀ s u) (tag : Tag) (b : Byte) (req : Nat) :
    Sub.Twins s₀ c₀ (xmitWord tag b req s) (xmitWord tag b req u) := by
  obtain ⟨c, rfl⟩ := h.eq_withCan
  exact (h.write afterSeen_canFree).checkAndSend tag b req (wordSeen s)

theorem Twin.csEnable (h : Twin s₀ c₀ s u) : Sub.Twins s₀ c₀ (csEnable s) (csEnable u) := by
  obtain ⟨c, rfl⟩ := h.eq_withCan
  exact .ite (fun _ => .raised h _ _) fun _ =>
    (h.setPin _ _).andThen fun _ _ h1 => .done ((h1.setCsHeld true).wait tCs)

theorem Twin.csDisable (h : Twin s₀ c₀ s u) : Sub.Twins s₀ c₀ (csDisable s) (csDisable u) := by
  obtain ⟨c, rfl⟩ := h.eq_withCan
  exact .ite
    (fun _ => (h.setPin _ _).andThen fun _ _ h1 => .done ((h1.setCsHeld false).wait tCs))
    fun _ => .raised h _ _

theorem Twin.presetBody (h : Twin s₀ c₀ s u) : Sub.Twins s₀ c₀ (presetBody s) (presetBody u) := by
  obtain ⟨c, rfl⟩ := h.eq_withCan
  exact (h.setPin _ _).andThen fun _ _ h1 =>
    ((h1.wait tRstLow).setPin _ _).andThen fun _ _ h2 => .done (h2.wait tRstWait)

theorem Twin.sendData (bs : List Byte) :
    ∀ {s u : State}, Twin s₀ c₀ s u → Sub.Twins s₀ c₀ (sendData bs s) (sendData bs u) := by
  induction bs with
  | nil => exact fun h => .done h
  | cons b bs ih => exact fun h => (h.xmitWord .data b 0).andThen fun _ _ h1 => ih h1

theorem Twin.entryWait (h : Twin s₀ c₀ s u) (e : TranscriptEntry) :
    Twin s₀ c₀ (entryWait e s) (entryWait e u) :=
  .ite (fun _ => h.wait e.postDelay) fun _ => h

theorem Twin.sendEntry (h : Twin s₀ c₀ s u) (e : TranscriptEntry) :
    Sub.Twins s₀ c₀ (sendEntry e s) (sendEntry e u) := by
  obtain ⟨c, rfl⟩ := h.eq_withCan
  exact ((h.xmitWord .command e.cmd (entryReq s.cfg e)).andThen fun _ _ h1 =>
    h1.sendData e.data).andThen fun _ _ h2 => .done (h2.entryWait e)

theorem Twin.replay (es : List TranscriptEntry) :
    ∀ {k : Nat} {s u : State}, Twin s₀ c₀ s u → Sub.Twins s₀ c₀ (replay k es s) (replay k es u) := by
  induction es with
  | nil => exact fun h => .done h
  | cons e es ih =>
    intro k s u h
    have hti : Twin s₀ c₀ (setTi k s) (setTi k u) := h.write {}
    exact (hti.sendEntry e).andThen fun _ _ h1 => ih h1

theorem Twin.initseqBody (h : Twin s₀ c₀ s u) :
    Sub.Twins s₀ c₀ (initseqBody s) (initseqBody u) := by
  obtain ⟨c, rfl⟩ := h.eq_withCan
  have hb : Twin s₀ c₀ (beginInitseq s) (beginInitseq (s.withCan c)) :=
    h.write {}
  exact ((hb.csEnable.andThen fun _ _ h1 => h1.replay s.cfg.transcript).andThen fun _ _ h2 =>
    h2.csDisable).andThen fun _ _ h3 => .done (h3.write {})

/-! ### RGBTC -/

theorem Twin.planeOutcome (h : Twin s₀ c₀ s u) (p : PlaneConfig) :
    Twin s₀ c₀ (planeOutcome p s) (planeOutcome p u) := by
  have h1 := h.draw.others
  have hstart := h1.write (f := startPlane p) {}
  have hfail := h1.write (f := failPlane) {}
  obtain ⟨c, rfl⟩ := h.eq_withCan
  exact .ite (fun _ => hstart.others.setStatus .ok)
    fun _ => hfail.others.reportFailure .handleCreationFailed

/-! ### BLIT -/

theorem allocOutcome_canFree (vw vh size : Nat) : CanFree (allocOutcome vw vh size) where
  withCan s c := by
    have hdraw : drawVal (s.withCan c) = drawVal s := rfl
    have hdraw' : drawVal (afterDraw (s.withCan c)) = drawVal (afterDraw s) := rfl
    have hcfg : (s.withCan c).cfg = s.cfg := rfl
    unfold allocOutcome
    simp only [hdraw, hdraw', hcfg]
    split <;> rfl
  cfg s := by
    obtain ⟨r, b, d, n, sc, e⟩ := allocOutcome_only vw vh size s
    rw [e]

/-- The copy writes the same bytes in the same order in both runs. -/
theorem Twin.copyBytes (n : Nat) :
    ∀ (ws : List (Nat × Byte)) {s u : State}, Twin s₀ c₀ s u →
      Twin s₀ c₀ (copyBytes n ws s) (copyBytes n ws u) := by
  induction n with
  | zero => exact fun _ _ _ h => h
  | succ n ih =>
    intro ws s u h
    unfold Machine.copyBytes
    rw [h.drawVal_eq]
    split
    · exact h
    · rename_i w _
      exact ih _ (h.draw.others.write (f := fun v => { v with rgb := fbWrite 0 w.1 w.2 v.rgb }) {})

theorem Twin.blitBody (h : Twin s₀ c₀ s u) (w : Window) (px : Nat) :
    Sub.Twins s₀ c₀ (blitBody w px s) (blitBody w px u) := by
  obtain ⟨c, rfl⟩ := h.eq_withCan
  refine .ite (fun _ => .raised h _ _) fun _ => .ite (fun _ => .done h) fun _ =>
    .ite (fun _ => .raised h _ _) fun _ => ?_
  have hplan : gather (s.withCan c).mem
        (transferPlan (s.withCan c).cfg (s.withCan c).rgb.hRes.toNat w px)
      = gather s.mem (transferPlan s.cfg s.rgb.hRes.toNat w px) := rfl
  rw [hplan]
  split
  · exact .raised h _ _
  · rename_i ws _
    exact .done (Twin.copyBytes ws.length ws (h.withBlit _))

theorem Twin.signalCompletion (h : Twin s₀ c₀ s u) (w : Window) :
    Twin s₀ c₀ (signalCompletion w s) (signalCompletion w u) :=
  h.write {}

/-! ### Every operation of the display side -/

/-- The sub-steps of an operation of SEQ, RGBTC or BLIT are the same in both runs. -/
theorem exec_display_twins {i : Instr} (hi : displaySide i = true) (h : Twin s₀ c₀ s u) :
    ∃ r r', exec i s = finish i.opcode s r ∧ exec i u = finish i.opcode u r'
      ∧ Sub.Twins s₀ c₀ r r' := by
  obtain ⟨c, rfl⟩ := h.eq_withCan
  cases i with
  | wrcmd code => exact ⟨_, _, rfl, rfl, h.xmitWord .command code (reqDelayOf s.cfg code)⟩
  | wrdata byte => exact ⟨_, _, rfl, rfl, h.xmitWord .data byte 0⟩
  | delay n => exact ⟨_, _, rfl, rfl, .done (h.wait n)⟩
  | csen => exact ⟨_, _, rfl, rfl, h.csEnable⟩
  | csdis => exact ⟨_, _, rfl, rfl, h.csDisable⟩
  | preset => exact ⟨_, _, rfl, rfl, h.presetBody⟩
  | initseq => exact ⟨_, _, rfl, rfl, h.initseqBody⟩
  | setpin pin l => exact ⟨_, _, rfl, rfl, h.setPin pin l⟩
  | dpcfg p =>
    exact ⟨_, _, rfl, rfl, .ite (fun _ => .refused _) fun _ => .ite (fun _ => .refused _) fun _ =>
      .ite (fun _ => .raised h _ _) fun _ => .done (h.planeOutcome p)⟩
  | blset req =>
    exact ⟨_, _, rfl, rfl, .ite (fun _ => .refused _) fun _ => .ite (fun _ => .raised h _ _) fun _ =>
      .done (h.withRgb _)⟩
  | bufalloc vw vh bpp f =>
    exact ⟨_, _, rfl, rfl, .ite (fun _ => .refused _) fun _ => .ite (fun _ => .refused _) fun _ =>
      .ite (fun _ => .refused _) fun _ => .ite (fun _ => .refused _) fun _ =>
      .done (h.write (allocOutcome_canFree vw vh _))⟩
  | flushreg vw vh ox oy rot =>
    exact ⟨_, _, rfl, rfl, .ite (fun _ => .refused _) fun _ => .ite (fun _ => .refused _) fun _ =>
      .ite (fun _ => .done h) fun _ => .ite (fun _ => .raised h _ _) fun _ =>
      .ite (fun _ => .refused _) fun _ => .done (h.withBlit _)⟩
  | flush x1 y1 x2 y2 px =>
    exact ⟨_, _, rfl, rfl, .ite (fun _ => .done h) fun _ => .ite (fun _ => .raised h _ _) fun _ =>
      .ite (fun _ => .raised h _ _) fun _ =>
      (h.blitBody _ _).andThen fun _ _ h1 => .done (h1.signalCompletion _)⟩
  | blit xs xe ys ye px => exact ⟨_, _, rfl, rfl, h.blitBody _ _⟩
  | _ => simp [displaySide, Instr.opcode] at hi

/-- R105, from the display side: beside a CANQ that runs where this one does, the operation ends in a twin. -/
theorem exec_display_twin {i : Instr} {t : State} (hi : displaySide i = true)
    (he : exec i s = .next t) {c : CanState} (hc : c.phase = .running ↔ s.can.phase = .running) :
    ∃ t', exec i (s.withCan c) = .next t' ∧ Twin s c t t' := by
  have h0 := Twin.start hc
  obtain ⟨r, r', h1, h2, hr⟩ := exec_display_twins hi h0
  rw [h1] at he
  cases he
  exact ⟨_, h2, hr.complete h0 _⟩

end

/-! ### CANQ's operations beside the display side -/

section
variable (s : State) (q : SeqState) (r : RgbState) (b : BlitState) (m : Memory) (n : Nat)

theorem installOutcome_withDisplay (c : BusConfig) :
    installOutcome c (markTried (s.withDisplay q r b m n))
      = (installOutcome c (markTried s)).withDisplay q r b m n := by
  have hinstall : drawBool (markTried (s.withDisplay q r b m n)) = drawBool (markTried s) := rfl
  have hstart : drawBool (installCan c (afterDraw (markTried (s.withDisplay q r b m n))))
      = drawBool (installCan c (afterDraw (markTried s))) := rfl
  unfold installOutcome
  rw [hinstall]
  split
  · unfold startOutcome
    rw [hstart]
    split <;> rfl
  · rfl

theorem receive_withDisplay : receive (s.withDisplay q r b m n) = (receive s).withDisplay q r b m n := by
  have hcan : (s.withDisplay q r b m n).can = s.can := rfl
  unfold receive
  rw [hcan]
  split <;> rfl

/-- R105, from CANQ's side: its operations do the same whatever the display side holds. -/
theorem exec_can_withDisplay {i : Instr} (hi : i.opcode ∈ [Opcode.cancfg, .canrecv, .canalrt])
    {t : State} (h : exec i s = .next t) :
    exec i (s.withDisplay q r b m n) = .next (t.withDisplay q r b m n) := by
  have hcan : (s.withDisplay q r b m n).can = s.can := rfl
  cases i with
  | cancfg c =>
    cases h
    simp only [exec, execCancfg, finish_eq, hcan, installOutcome_withDisplay]
    split
    · rfl
    · split <;> rfl
  | canrecv =>
    cases h
    simp only [exec, execCanrecv, finish_eq, receive_withDisplay]
    rfl
  | canalrt => cases h; rfl
  | _ => simp [Instr.opcode] at hi

end

/-- The operations that are not the display side's are CANQ's. -/
theorem displaySide_eq_false {i : Instr} :
    displaySide i = false ↔ i.opcode ∈ [Opcode.cancfg, .canrecv, .canalrt] := by
  unfold displaySide
  cases i.opcode <;> decide

/-- Settles O33: the display side by running each operation in twins, SCAN and CANENV by their own equations,
and CANQ by what its operations can change and by running them beside another display side. -/
theorem canAndDisplayShareNoState : Obligations.CanAndDisplayShareNoState := by
  refine ⟨fun i s t hi he => ⟨?_, fun c hs hc => ?_, fun c hs hc => ?_⟩,
    fun s c => ⟨scanStep_can s, scanStep_withCan s c⟩, fun i s t q r b m n hi he => ?_,
    fun e s q r b m n => ?_⟩
  · obtain ⟨_, -, ht⟩ := exec_display_twin hi he (c := s.can) Iff.rfl
    obtain ⟨v, hv, -, hcan⟩ := ht.origin
    exact ⟨v, hv, hcan.symm⟩
  · obtain ⟨t', he', ht⟩ := exec_display_twin hi he (iff_of_false hc hs)
    rw [ht.rest, ht.idle hs] at he'
    exact he'
  · obtain ⟨t', he', ht⟩ := exec_display_twin hi he (iff_of_true hc hs)
    exact ⟨t'.can, he'.trans (congrArg _ ht.rest)⟩
  · have hop := displaySide_eq_false.mp hi
    have ht := exec_can_changes hop he
    refine ⟨?_, ?_, ?_, ?_, ?_, exec_can_withDisplay s q r b m n hop he⟩ <;> rw [ht]
  · refine ⟨?_, ?_, ?_, ?_, ?_, canStep_withDisplay e s q r b m n⟩ <;> rw [canStep_only e s]

end Sys2Proof.Machine
end

section
/-! PROOFS. Family 30_encoding: decoding and encoding are inverse to each other, what a decoded instruction
is like, and the decode faults (O1 to O7).

`decode` looks only at the words from PC on. `decode_eq_instr_iff` says what it asks of them; the round trip
is then two facts about one descriptor: `assemble_encode` and `encode_assemble`. -/

namespace Sys2Proof

/-! ### Must-be-0 bits of one word -/

/-- A field that lies under a must-be-0 mask is 0. -/
theorem extract_eq_zero_of_mask {v m : Word} (hv : v &&& m = 0#32) {s l : Nat}
    (hm : m.extractLsb' s l = BitVec.allOnes l) : v.extractLsb' s l = 0#l := by
  have h := congrArg (BitVec.extractLsb' s l) hv
  rwa [BitVec.extractLsb'_and, hm, BitVec.and_allOnes, BitVec.extractLsb'_zero] at h

/-- A field with zeros above it is the wider field. -/
theorem setWidth_extract_eq {v : Word} {s l n : Nat} (h : v.extractLsb' (s + l) (n - l) = 0#(n - l)) :
    (v.extractLsb' s l).setWidth n = v.extractLsb' s n := by
  apply BitVec.eq_of_getLsbD_eq
  intro k hk
  by_cases hkl : k < l
  · simp [hk, hkl]
  · have hbit := congrArg (BitVec.getLsbD · (k - l)) h
    have hin : k - l < n - l := by omega
    have hpos : s + l + (k - l) = s + k := by omega
    simpa [hk, hkl, hin, hpos] using hbit.symm

/-- One bit as a number is the field of width 1. -/
theorem toNat_getLsbD (v : Word) (s : Nat) : (v.getLsbD s).toNat = (v.extractLsb' s 1).toNat := by
  rw [BitVec.extractLsb'_toNat, Nat.shiftRight_eq_div_pow]
  exact Nat.toNat_testBit _ _

/-- A header word is clear under a mask, OPC's part of it 0, when its other two fields are. -/
theorem header_and_eq_zero {o : Opcode} {a8 y : BitVec 8} {n : Nat} {x : BitVec 16}
    (hn : BitVec.ofNat 16 n &&& x = 0#16) (ha : a8 &&& y = 0#8) :
    header o a8 n &&& (x ++ (y ++ 0#8)) = 0#32 := by
  rw [header, BitVec.and_append, BitVec.and_append, hn, ha, BitVec.and_zero]
  rfl

theorem header_f0_clear (o : Opcode) : header o 0#8 0 &&& Format.headerMask .f0 = 0#32 :=
  header_and_eq_zero (x := 0xFFFF#16) (y := 0xFF#8) rfl rfl

theorem header_f1_clear (o : Opcode) (a8 : BitVec 8) :
    header o a8 0 &&& Format.headerMask .f1 = 0#32 :=
  header_and_eq_zero (x := 0xFFFF#16) (y := 0#8) rfl BitVec.and_zero

theorem header_f2_clear (o : Opcode) (n : Nat) :
    header o 0#8 n &&& Format.headerMask .f2 = 0#32 :=
  header_and_eq_zero (x := 0#16) (y := 0xFF#8) BitVec.and_zero rfl

theorem header_f3_clear (o : Opcode) (a8 : BitVec 8) (l : Bool) :
    header o a8 l.toNat &&& Format.headerMask .f3 = 0#32 :=
  header_and_eq_zero (x := 0xFFFE#16) (y := 0#8) (by cases l <;> rfl) BitVec.and_zero

/-! ### Header words -/

/-- A header word is its three fields. -/
theorem header_fields {o : Opcode} {v : Word} (ho : byteOf 0 v = o.byte) :
    header o (byteOf 1 v) (hi16 v) = v := by
  have hlow : byteOf 1 v ++ byteOf 0 v = BitVec.ofNat 16 (lo16 v) := by
    rw [lo16, BitVec.ofNat_toNat, BitVec.setWidth_eq]
    exact BitVec.extractLsb'_append_extractLsb'_eq_extractLsb' rfl
  rw [header, ← ho, hlow]
  exact pack16_halves v

section
variable {o : Opcode} {v : Word} (ho : byteOf 0 v = o.byte)
include ho

theorem header_of_f0 (hv : v &&& Format.headerMask .f0 = 0#32) : header o 0#8 0 = v := by
  have h8 : byteOf 1 v = 0#8 := extract_eq_zero_of_mask hv rfl
  have h16 : hi16 v = 0 := congrArg BitVec.toNat (extract_eq_zero_of_mask hv rfl)
  simpa only [h8, h16] using header_fields ho

theorem header_of_f1 (hv : v &&& Format.headerMask .f1 = 0#32) : header o (byteOf 1 v) 0 = v := by
  have h16 : hi16 v = 0 := congrArg BitVec.toNat (extract_eq_zero_of_mask hv rfl)
  simpa only [h16] using header_fields ho

theorem header_of_f2 (hv : v &&& Format.headerMask .f2 = 0#32) : header o 0#8 (hi16 v) = v := by
  have h8 : byteOf 1 v = 0#8 := extract_eq_zero_of_mask hv rfl
  simpa only [h8] using header_fields ho

theorem header_of_f3 (hv : v &&& Format.headerMask .f3 = 0#32) :
    header o (byteOf 1 v) (v.getLsbD 16).toNat = v := by
  have h16 : (v.extractLsb' 16 1).setWidth 16 = v.extractLsb' 16 16 :=
    setWidth_extract_eq (extract_eq_zero_of_mask hv rfl)
  have hbit : (v.getLsbD 16).toNat = hi16 v := by
    have h := congrArg BitVec.toNat h16
    rwa [BitVec.toNat_setWidth_of_le (by decide), ← toNat_getLsbD] at h
  rw [hbit, header_fields ho]

end

/-! ### Operand words -/

theorem pack8_and_eq_zero {a b c d x y z t : BitVec 8} (ha : a &&& x = 0#8) (hb : b &&& y = 0#8)
    (hc : c &&& z = 0#8) (hd : d &&& t = 0#8) : pack8 a b c d &&& pack8 x y z t = 0#32 := by
  rw [pack8, pack8, BitVec.and_append, BitVec.and_append, BitVec.and_append, ha, hb, hc, hd]
  rfl

/-- Three alert bits leave bits 31..27 clear. -/
theorem busWord1_clear (c : BusConfig) : busWord1 c &&& 0xF8000000#32 = 0#32 :=
  pack8_and_eq_zero (x := 0#8) (y := 0#8) (z := 0#8) (t := 0xF8#8) BitVec.and_zero BitVec.and_zero
    BitVec.and_zero (by generalize c.alerts = a; revert a; decide)

theorem pack8_two_clear (a b : BitVec 8) : pack8 a b 0#8 0#8 &&& 0xFFFF0000#32 = 0#32 :=
  pack8_and_eq_zero (x := 0#8) (y := 0#8) (z := 0xFF#8) (t := 0xFF#8) BitVec.and_zero BitVec.and_zero
    rfl rfl

theorem two_bits_clear {n : Nat} (h : n < 4) : BitVec.ofNat 32 n &&& 0xFFFFFFFC#32 = 0#32 := by
  interval_cases n <;> rfl

theorem one_bit_clear (b : Bool) : BitVec.ofNat 32 b.toNat &&& 0xFFFFFFFE#32 = 0#32 := by
  cases b <;> rfl

/-- A word of nothing but a field at its bottom is that field. -/
theorem ofNat_toNat_low {v : Word} {l : Nat} (h : v.extractLsb' (0 + l) (32 - l) = 0#(32 - l)) :
    BitVec.ofNat 32 (v.extractLsb' 0 l).toNat = v := by
  rw [BitVec.ofNat_toNat, setWidth_extract_eq h, BitVec.extractLsb'_eq_self]

theorem two_bits_of_mask {v : Word} (hv : v &&& 0xFFFFFFFC#32 = 0#32) :
    BitVec.ofNat 32 (v.extractLsb' 0 2).toNat = v :=
  ofNat_toNat_low (extract_eq_zero_of_mask hv rfl)

theorem one_bit_of_mask {v : Word} (hv : v &&& 0xFFFFFFFE#32 = 0#32) :
    BitVec.ofNat 32 (v.getLsbD 0).toNat = v := by
  rw [toNat_getLsbD]
  exact ofNat_toNat_low (extract_eq_zero_of_mask hv rfl)

theorem pack8_two_of_mask {v : Word} (hv : v &&& 0xFFFF0000#32 = 0#32) :
    pack8 (byteOf 0 v) (byteOf 1 v) 0#8 0#8 = v := by
  have h2 : byteOf 2 v = 0#8 := extract_eq_zero_of_mask hv rfl
  have h3 : byteOf 3 v = 0#8 := extract_eq_zero_of_mask hv rfl
  simpa only [h2, h3] using pack8_bytes v

theorem busWord1_busOf {w : Nat → Word} (hw : w 1 &&& 0xF8000000#32 = 0#32) :
    busWord1 (busOf w) = w 1 := by
  have halerts : ((w 1).extractLsb' 24 3).setWidth 8 = byteOf 3 (w 1) :=
    setWidth_extract_eq (extract_eq_zero_of_mask hw rfl)
  simp only [busWord1, busOf, halerts, pack8_bytes]

/-! ### The check of the must-be-0 bits -/

@[simp] theorem firstReserved_cons_eq_none {k : Nat} {m v : Word} {ms vs : List Word} :
    firstReserved k (m :: ms) (v :: vs) = none ↔ v &&& m = 0#32 ∧ firstReserved (k + 1) ms vs = none := by
  rw [firstReserved]
  split <;> simp [*]

@[simp] theorem firstReserved_nil (k : Nat) (vs : List Word) : firstReserved k [] vs = none := rfl

/-- No word is reported exactly when every word is clear under its mask. -/
theorem firstReserved_eq_none_iff {ms vs : List Word} (h : ms.length ≤ vs.length) (k : Nat) :
    firstReserved k ms vs = none ↔ ∀ j < ms.length, vs.getD j 0#32 &&& ms.getD j 0#32 = 0#32 := by
  induction ms generalizing vs k with
  | nil => simp
  | cons m ms ih =>
    cases vs with
    | nil => simp at h
    | cons v vs =>
      rw [firstReserved_cons_eq_none, ih (by simpa using h), List.length_cons,
        Nat.forall_lt_succ_left]
      simp only [List.getD_cons_zero, List.getD_cons_succ]

theorem masks_length (o : Opcode) : o.masks.length = o.len := by
  cases o <;> rfl

/-! ### What decoding asks of the words -/

theorem ofByte_eq_none {b : BitVec 8} (h : ∀ o : Opcode, o.byte ≠ b) : Opcode.ofByte? b = none :=
  Option.eq_none_iff_forall_ne_some.mpr fun o ho => h o (ofByte_eq_some.mp ho)

theorem decode_illegal {d : List Word} {pc : Nat} {h : Word} (hd : d[pc]? = some h)
    (ho : ∀ o : Opcode, o.byte ≠ byteOf 0 h) : decode d pc = .illegalOp h := by
  simp only [decode, hd, ofByte_eq_none ho]

theorem decode_truncated {d : List Word} {pc : Nat} {h : Word} {o : Opcode} (hd : d[pc]? = some h)
    (ho : o.byte = byteOf 0 h) (hlen : d.length < pc + o.len) : decode d pc = .truncated pc := by
  simp only [decode, hd, ofByte_eq_some.mpr ho, hlen, if_true]

/-- A descriptor is decoded when its opcode is in the map, its words lie inside descriptor memory and no
must-be-0 bit is set; only the words from PC on count. -/
theorem decode_eq_instr_iff {d : List Word} {pc : Nat} {i : Instr} :
    decode d pc = .instr i ↔
      ∃ o : Opcode, byteOf 0 ((d.drop pc).getD 0 0#32) = o.byte ∧ o.len ≤ (d.drop pc).length
        ∧ firstReserved 0 o.masks (d.drop pc) = none
        ∧ o.assemble (fun k => (d.drop pc).getD k 0#32) = i := by
  have hget : ∀ k, (d.drop pc).getD k 0#32 = d.getD (pc + k) 0#32 := fun k => by
    simp only [List.getD_eq_getElem?_getD, List.getElem?_drop]
  simp only [hget, List.length_drop, Nat.add_zero]
  constructor
  · intro h
    unfold decode at h
    split at h
    · cases h
    · rename_i v hv
      split at h
      · cases h
      · rename_i o ho
        split at h
        · cases h
        · rename_i hlen
          split at h
          · cases h
          · rename_i hclear
            cases h
            refine ⟨o, ?_, by omega, hclear, rfl⟩
            rw [List.getD_eq_getElem?_getD, hv]
            exact (ofByte_eq_some.mp ho).symm
  · rintro ⟨o, ho, hlen, hclear, rfl⟩
    have hpos : 1 ≤ o.len := (Laws.EncodeShape.len_bounds o).1
    have hpc : d[pc]? = some (d.getD pc 0#32) := by
      rw [List.getD_eq_getElem d _ (by omega), List.getElem?_eq_getElem]
    have hin : ¬ d.length < pc + o.len := by omega
    simp only [decode, hpc, ho, ofByte_eq_some.mpr rfl, hin, if_false, hclear]

/-! ### One descriptor: encoding, then assembling -/

/-- The shape of an instruction's words, for every instruction. -/
theorem encode_shape (i : Instr) : Laws.EncodeShape.Statement i := by
  cases i with
  | wrcmd c => exact Laws.EncodeShape.wrcmd c
  | wrdata b => exact Laws.EncodeShape.wrdata b
  | delay n => exact Laws.EncodeShape.delay n
  | csen => exact Laws.EncodeShape.csen
  | csdis => exact Laws.EncodeShape.csdis
  | preset => exact Laws.EncodeShape.preset
  | initseq => exact Laws.EncodeShape.initseq
  | setpin p l => exact Laws.EncodeShape.setpin p l
  | cancfg c => exact Laws.EncodeShape.cancfg c
  | canrecv => exact Laws.EncodeShape.canrecv
  | canalrt => exact Laws.EncodeShape.canalrt
  | dpcfg c => exact Laws.EncodeShape.dpcfg c
  | blset r => exact Laws.EncodeShape.blset r
  | bufalloc vw vh bpp f => exact Laws.EncodeShape.bufalloc vw vh bpp f
  | flushreg vw vh ox oy rot => exact Laws.EncodeShape.flushreg vw vh ox oy rot
  | flush x1 y1 x2 y2 px => exact Laws.EncodeShape.flush x1 y1 x2 y2 px
  | blit xs xe ys ye px => exact Laws.EncodeShape.blit xs xe ys ye px

/-- The encoder sets no must-be-0 bit. -/
theorem encode_clear (i : Instr) (after : List Word) (hw : i.wf = true) :
    firstReserved 0 i.opcode.masks (encode i ++ after) = none := by
  cases i with
  | csen | csdis | preset | initseq | canrecv | canalrt =>
    exact firstReserved_cons_eq_none.mpr ⟨header_f0_clear _, rfl⟩
  | wrcmd | wrdata => exact firstReserved_cons_eq_none.mpr ⟨header_f1_clear _ _, rfl⟩
  | delay | blset => exact firstReserved_cons_eq_none.mpr ⟨header_f2_clear _ _, rfl⟩
  | setpin => exact firstReserved_cons_eq_none.mpr ⟨header_f3_clear _ _ _, rfl⟩
  | cancfg c =>
    refine firstReserved_cons_eq_none.mpr ⟨header_f0_clear _, ?_⟩
    simp [Instr.opcode, Opcode.operandMasks, busWord1_clear]
  | dpcfg c =>
    refine firstReserved_cons_eq_none.mpr ⟨header_f0_clear _, ?_⟩
    simp [Instr.opcode, Opcode.operandMasks, one_bit_clear]
  | bufalloc =>
    refine firstReserved_cons_eq_none.mpr ⟨header_f0_clear _, ?_⟩
    simp [Instr.opcode, Opcode.operandMasks, pack8_two_clear]
  | flushreg vw vh ox oy rot =>
    have hrot : rot < 4 := by
      simp only [Instr.wf, fits, Bool.and_eq_true, decide_eq_true_eq] at hw
      exact hw.2
    refine firstReserved_cons_eq_none.mpr ⟨header_f0_clear _, ?_⟩
    simp [Instr.opcode, Opcode.operandMasks, two_bits_clear hrot]
  | flush | blit =>
    refine firstReserved_cons_eq_none.mpr ⟨header_f0_clear _, ?_⟩
    simp [Instr.opcode, Opcode.operandMasks]

/-! The fields of CANCFG's first operand word. -/

@[simp] theorem byteOf_zero_busWord1 (c : BusConfig) : byteOf 0 (busWord1 c) = c.txPin :=
  byteOf_zero_pack8 _ _ _ _
@[simp] theorem byteOf_one_busWord1 (c : BusConfig) : byteOf 1 (busWord1 c) = c.rxPin :=
  byteOf_one_pack8 _ _ _ _
@[simp] theorem byteOf_two_busWord1 (c : BusConfig) : byteOf 2 (busWord1 c) = c.mode :=
  byteOf_two_pack8 _ _ _ _

@[simp] theorem alerts_busWord1 (c : BusConfig) : (busWord1 c).extractLsb' 24 3 = c.alerts := by
  have h : (busWord1 c).extractLsb' 24 3 = (c.alerts.setWidth 8).extractLsb' 0 3 :=
    extract_append_high _ _ (by decide)
  rw [h]
  generalize c.alerts = a
  revert a
  decide

/-- SETPIN's level comes back from the header's lowest immediate bit. -/
theorem getLsbD_16_header (o : Opcode) (a8 : BitVec 8) (l : Bool) :
    (header o a8 l.toNat).getLsbD 16 = l := by
  rw [header, BitVec.getLsbD_append]
  cases l <;> rfl

/-- DPCFG's placement comes back from bit 0 of its last word. -/
theorem getElem_zero_ofNat_toNat (b : Bool) : (BitVec.ofNat 32 b.toNat)[0] = b := by
  cases b <;> rfl

theorem busOf_encode {c : BusConfig} (after : List Word) (hw : c.wf = true) :
    busOf (fun k => (encode (.cancfg c) ++ after).getD k 0#32) = c := by
  cases c
  simpa [busOf, encode, BusConfig.wf, fits] using hw

theorem planeOf_encode {c : PlaneConfig} (after : List Word) (hw : c.wf = true) :
    planeOf (fun k => (encode (.dpcfg c) ++ after).getD k 0#32) = c := by
  cases c
  simpa [planeOf, encode, getElem_zero_ofNat_toNat, PlaneConfig.wf, fits, and_assoc] using hw

/-- Assembling an instruction's words gives it back, whatever words follow. -/
theorem assemble_encode (i : Instr) (after : List Word) (hw : i.wf = true) :
    i.opcode.assemble (fun k => (encode i ++ after).getD k 0#32) = i := by
  cases i with
  | csen | csdis | preset | initseq | canrecv | canalrt => rfl
  | wrcmd c => exact congrArg Instr.wrcmd (byteOf_one_header _ _ _)
  | wrdata b => exact congrArg Instr.wrdata (byteOf_one_header _ _ _)
  | setpin p l => exact congrArg₂ Instr.setpin (byteOf_one_header _ _ _) (getLsbD_16_header _ _ _)
  | delay n | blset n =>
    simpa [encode, Instr.opcode, Opcode.assemble, Instr.wf, fits] using hw
  | cancfg c => exact congrArg Instr.cancfg (busOf_encode after hw)
  | dpcfg c => exact congrArg Instr.dpcfg (planeOf_encode after hw)
  | bufalloc | flushreg | flush | blit =>
    simpa [encode, Instr.opcode, Opcode.assemble, Instr.wf, fits, and_assoc] using hw

/-! ### One descriptor: assembling, then encoding -/

/-- Words whose header carries the operation code and which have no must-be-0 bit set are the encoding of
what they assemble to. -/
theorem encode_assemble (o : Opcode) (w : Nat → Word) (ho : byteOf 0 (w 0) = o.byte)
    (hm : ∀ k < o.masks.length, w k &&& o.masks.getD k 0#32 = 0#32) :
    encode (o.assemble w) = (List.range o.len).map w := by
  have hh : w 0 &&& o.format.headerMask = 0#32 := hm 0 (by simp [Opcode.masks])
  cases o with
  | csen | csdis | preset | initseq | canrecv | canalrt =>
    exact congrArg (· :: []) (header_of_f0 ho hh)
  | wrcmd | wrdata => exact congrArg (· :: []) (header_of_f1 ho hh)
  | delay | blset => exact congrArg (· :: []) (header_of_f2 ho hh)
  | setpin => exact congrArg (· :: []) (header_of_f3 ho hh)
  | cancfg =>
    have hhead := header_of_f0 ho hh
    have hbus : busWord1 (busOf w) = w 1 := busWord1_busOf (hm 1 (by decide))
    simp only [Opcode.assemble, encode, hhead, hbus]
    simp only [busOf, pack16_halves]
    rfl
  | dpcfg =>
    have hhead := header_of_f0 ho hh
    have hlast := one_bit_of_mask (hm 8 (by decide))
    simp only [Opcode.assemble, encode, planeOf, hhead, pack16_halves, BitVec.ofNat_toNat,
      BitVec.setWidth_eq, pack8_bytes, hlast]
    rfl
  | bufalloc =>
    have hhead := header_of_f0 ho hh
    have hlast := pack8_two_of_mask (hm 2 (by decide))
    simp only [Opcode.assemble, encode, hhead, pack16_halves, BitVec.ofNat_toNat,
      BitVec.setWidth_eq, hlast]
    rfl
  | flushreg =>
    have hhead := header_of_f0 ho hh
    have hlast := two_bits_of_mask (hm 3 (by decide))
    simp only [Opcode.assemble, encode, hhead, pack16_halves, hlast]
    rfl
  | flush | blit =>
    have hhead := header_of_f0 ho hh
    simp only [Opcode.assemble, encode, hhead, pack16_halves]
    rfl

/-- The first `n` words, by number. -/
theorem take_eq_map_getD {d : List Word} {n : Nat} (h : n ≤ d.length) :
    d.take n = (List.range n).map (fun k => d.getD k 0#32) := by
  refine List.ext_getElem (by simpa using h) fun k hk _ => ?_
  have hkd : k < d.length := by simp at hk; omega
  simp [hkd]

/-! ### The obligations -/

open Machine

/-- Settles O1: the encoding's words pass the checks (`encode_clear`) and assemble to the instruction. -/
theorem decodeOfEncodeIsTheInstruction : Obligations.DecodeOfEncodeIsTheInstruction := by
  intro i before after hw
  have hdrop : (before ++ encode i ++ after).drop before.length = encode i ++ after := by simp
  obtain ⟨hlen, hpos, -, hbyte⟩ := encode_shape i
  rw [decode_eq_instr_iff, hdrop]
  refine ⟨i.opcode, ?_, ?_, encode_clear i after hw, assemble_encode i after hw⟩
  · have hhead : (encode i ++ after).getD 0 0#32 = (encode i).headD 0#32 := by
      rw [List.getD_append _ _ _ _ (by omega), List.headD_eq_head?_getD, List.head?_eq_getElem?,
        List.getD_eq_getElem?_getD]
    rw [hhead, hbyte]
  · rw [List.length_append, hlen]
    exact Nat.le_add_right _ _

/-- Settles O2: the words read are clear under their masks, so `encode_assemble` gives them back. -/
theorem encodeOfDecodedIsTheWords : Obligations.EncodeOfDecodedIsTheWords := by
  intro d pc i h
  obtain ⟨o, hbyte, hlen, hclear, rfl⟩ := decode_eq_instr_iff.mp h
  have hm := (firstReserved_eq_none_iff (by rwa [masks_length]) 0).mp hclear
  rw [encode_assemble o _ hbyte hm, Instr.len, assemble_opcode, take_eq_map_getD hlen]

/-- Settles O3: fields cut out of words fit, and decoding has checked the length. -/
theorem decodedInstructionFits : Obligations.DecodedInstructionFits := by
  intro d pc i h
  obtain ⟨hwf, hin⟩ := decode_eq_instr h
  obtain ⟨hpos, hmax⟩ := Laws.EncodeShape.len_bounds i.opcode
  exact ⟨hwf, hpos, hmax, hin⟩

/-- A decode fault at HOST's turn is the whole step: it comes before any effect (R126 to R128). -/
theorem step_of_decodeFault {s : State} {c : FaultCode} {info : Nat} (hp : ParamsOk s.cfg)
    (ht : nextTurn s = some .host) (hf : hostStep (atTurn s) = decodeFault c info (atTurn s)) :
    step s = .next { atTurn s with fault := some ⟨c, s.pc, info⟩ } := by
  rw [step_eq_runTurn hp ht, runTurn, hf]
  simp only [decodeFault, raiseFault, atTurn_pc]

/-- Settles O6: the header decodes to an illegal operation. -/
theorem illegalOpcodeFaults : Obligations.IllegalOpcodeFaults := by
  refine ⟨fun o => by cases o <;> decide, fun s h hp ht hh ho => step_of_decodeFault hp ht ?_⟩
  simp only [hostStep, atTurn_desc, atTurn_pc, decode_illegal hh ho]

/-- Settles O7: the words left decode to a truncated descriptor. -/
theorem truncatedDescriptorFaults : Obligations.TruncatedDescriptorFaults := by
  intro s h o hp ht hh ho hlen
  apply step_of_decodeFault hp ht
  simp only [hostStep, atTurn_desc, atTurn_pc, decode_truncated hh ho hlen]

/-- Settles O4: the decoder runs on each list of words. -/
theorem specWordsDecodeAsListed : Obligations.SpecWordsDecodeAsListed := by
  unfold Obligations.SpecWordsDecodeAsListed
  decide

/-- The word's value: DC in bit 8 above the byte. -/
theorem busWord_toNat (t : Tag) (b : Byte) : (busWord t b).toNat = 256 * t.bit.toNat + b.toNat := by
  rw [busWord, BitVec.toNat_append, ← Nat.shiftLeft_add_eq_or_of_lt b.isLt, Nat.shiftLeft_eq]
  omega

theorem getLsbD_busWord_byte (t : Tag) (b : Byte) {k : Nat} (hk : k < 8) :
    (busWord t b).getLsbD k = b.getLsbD k := by
  rw [busWord, BitVec.getLsbD_append, if_pos hk]

theorem getLsbD_busWord_dc (t : Tag) (b : Byte) :
    (busWord t b).getLsbD 8 = decide (t = .data) := by
  rw [busWord, BitVec.getLsbD_append]
  cases t <;> rfl

/-- Settles O5: the value from `busWord_toNat`, the wire order bit by bit. -/
theorem controlBusWordAndWireOrder : Obligations.ControlBusWordAndWireOrder := by
  intro b
  refine ⟨?_, ?_, fun t => ?_⟩
  · simp [busWord_toNat, Tag.bit]
  · simp [busWord_toNat, Tag.bit]
  · have hrange : List.range 9 = [0, 1, 2, 3, 4, 5, 6, 7, 8] := rfl
    simp only [wireBits, hrange, List.map_cons, List.map_nil, Nat.reduceSub, getLsbD_busWord_dc,
      getLsbD_busWord_byte, Nat.reduceLT]

end Sys2Proof
end

section
/-! PROOFS. Family 41_sequencer: whose step comes next, and what goes on after HOST has stopped (O9,
O55). -/

namespace Sys2Proof.Machine

section
variable {s : State}

theorem scanEnabled_iff (s : State) :
    scanEnabled s = true ↔ s.rgb.phase = .running ∨ s.rgb.scanOpen = true := by
  simp [scanEnabled, or_comm]

/-- Another agent has a step exactly while CAN runs, the data plane runs or a frame is open (R283). -/
theorem otherSteps_ne_nil_iff (s : State) :
    otherSteps s ≠ [] ↔ s.can.phase = .running ∨ s.rgb.phase = .running ∨ s.rgb.scanOpen = true := by
  rw [Ne, otherSteps_eq_nil, not_and_or, Bool.not_eq_false, Bool.not_eq_false, canEnabled_iff,
    scanEnabled_iff]

theorem otherSteps_idle (hc : s.can.phase ≠ .running) (hr : s.rgb.phase ≠ .running)
    (ho : s.rgb.scanOpen = false) : otherSteps s = [] := by
  rw [← not_ne_iff, otherSteps_ne_nil_iff]
  simp [hc, hr, ho]

/-- With HOST alone enabled there is no choice. -/
theorem nextTurn_host_alone (hh : hostEnabled s = true) (ho : otherSteps s = []) :
    nextTurn s = some .host := by
  simp [nextTurn, enabledTurns, hh, ho, chosen]

/-- HOST has stopped, or its program has ended (R140). -/
theorem hostEnabled_eq_false (h : s.fault ≠ none ∨ s.qmark ≠ none ∨ s.desc.length ≤ s.pc) :
    hostEnabled s = false := by
  rw [Bool.eq_false_iff, Ne, hostEnabled_iff]
  rintro ⟨hf, hq, hpc⟩
  rcases h with h | h | h
  · exact h hf
  · exact h hq
  · omega

theorem enabledTurns_stopped (hh : hostEnabled s = false) :
    enabledTurns s = (otherSteps s).map .other := by
  simp [enabledTurns, hh]

/-- Where HOST has stopped, a step is an enabled one of the other agents. -/
theorem step_stopped {t : State} (hh : hostEnabled s = false) (h : step s = .next t) :
    ∃ a ∈ otherSteps s, t = agentStep a (atTurn s) := by
  have stopped : ¬ (s.fault = none ∧ s.qmark = none ∧ s.pc < s.desc.length) := by
    simp [← hostEnabled_iff, hh]
  obtain ⟨-, ⟨i, hf, hq, hi, -⟩ | ⟨c, n, hf, hq, hpc, -⟩ | ⟨a, ha, ht⟩⟩ := step_cases h
  · have hlen := (decode_eq_instr hi).2
    have hpos := (Laws.EncodeShape.len_bounds i.opcode).1
    exact absurd ⟨hf, hq, by omega⟩ stopped
  · exact absurd ⟨hf, hq, hpc⟩ stopped
  · exact ⟨a, ha, ht⟩

/-- And where they have one, there is a step. -/
theorem exists_step_stopped (hp : ParamsOk s.cfg) (hh : hostEnabled s = false)
    (ho : otherSteps s ≠ []) : ∃ t, step s = .next t := by
  obtain ⟨turn, ht⟩ := exists_chosen (as := enabledTurns s) (by simpa [enabledTurns_stopped hh]) s
  rcases mem_enabledTurns (nextTurn_mem ht) with ⟨-, hh'⟩ | ⟨a, rfl, -⟩
  · simp [hh] at hh'
  · exact ⟨agentStep a (atTurn s), by rw [step_eq_runTurn hp ht, runTurn]⟩

theorem step_eq_haltReason (hp : ParamsOk s.cfg) (hh : hostEnabled s = false)
    (ho : otherSteps s = []) : step s = .fault (haltReason s) := by
  have hn : nextTurn s = none := by simp [nextTurn, enabledTurns_stopped hh, ho, chosen]
  unfold step machineStep
  rw [hp, hn]

/-- An enabled step of the other agents is an event of the CAN bus or a step of SCAN, taken in the state
with at most a frame's content drawn. -/
theorem agentStep_cases {a : AgentStep} (h : a ∈ otherSteps s) (u : State) :
    ∃ v, v = { u with draws := v.draws, script := v.script }
      ∧ ((s.can.phase = .running ∧ ∃ e, agentStep a u = canStep e v)
        ∨ ((s.rgb.phase = .running ∨ s.rgb.scanOpen = true) ∧ agentStep a u = scanStep v)) := by
  rcases mem_otherSteps.mp h with ⟨hn, he⟩ | ⟨rfl, he⟩
  · have hc := (canEnabled_iff s).mp he
    cases a with
    | canRx => exact ⟨afterDraw u, rfl, .inl ⟨hc, .rx ⟨drawVal u⟩, rfl⟩⟩
    | canBusErr => exact ⟨u, rfl, .inl ⟨hc, .busErr, rfl⟩⟩
    | canErrPass => exact ⟨u, rfl, .inl ⟨hc, .errPass, rfl⟩⟩
    | scan => exact absurd rfl hn
  · exact ⟨u, rfl, .inr ⟨(scanEnabled_iff s).mp he, rfl⟩⟩

end

/-- Settles O9: the choice of turn by the lemmas about `chosen`, HOST's step by `step_eq_runTurn`. -/
theorem stepRunsTheDecodedInstruction : Obligations.StepRunsTheDecodedInstruction := by
  intro s
  refine ⟨host_mem_enabledTurns.trans (hostEnabled_iff s), fun t => nextTurn_mem, fun t ht => ?_,
    fun hf hq hpc hc hr ho => ?_, fun i hp ht hi => ⟨?_, atTurn_only s⟩⟩
  · obtain ⟨n, hn⟩ := chosen_of_mem ht s
    exact ⟨[n], hn []⟩
  · exact nextTurn_host_alone ((hostEnabled_iff s).mpr ⟨hf, hq, hpc⟩) (otherSteps_idle hc hr ho)
  · rw [step_eq_runTurn hp ht, runTurn, hostStep, atTurn_desc, atTurn_pc, hi]

/-- Settles O55: with HOST not enabled the enabled turns are the other agents' steps. -/
theorem stoppedHostTakesNoStep : Obligations.StoppedHostTakesNoStep := by
  intro s hp hstop
  have hh := hostEnabled_eq_false hstop
  refine ⟨fun t h => ?_, fun ho => ?_, fun hc hr ho => ?_⟩
  · obtain ⟨a, ha, rfl⟩ := step_stopped hh h
    obtain ⟨v, hv, hstep⟩ := agentStep_cases ha (atTurn s)
    refine ⟨v, ?_, hstep⟩
    rw [hv, atTurn_only s]
  · exact exists_step_stopped hp hh ((otherSteps_ne_nil_iff s).mpr ho)
  · rw [step_eq_haltReason hp hh (otherSteps_idle hc hr ho)]
    simp [haltReason, Option.isSome_iff_ne_none]

end Sys2Proof.Machine
end

section
/-! PROOFS. Family 41_sequencer: words, lines, waits and the chip-select bracket (O10 to O20).

An operation of SEQ that is done leaves the state as the other agents made it, but for PC, the clock and
SEQ: `BesideOthers`. What it makes of the clock and of SEQ is then one equation per operation. -/

namespace Sys2Proof.Machine

/-! ### HOST's own changes beside the other agents' steps -/

/-- From `s` to `t` the other agents have stepped, and HOST has changed the clock and SEQ alone. -/
def BesideOthers (s t : State) : Prop := ∃ u, OthersRan s u ∧ t = u.withSeq t.now t.seq

section
variable {s t : State}

theorem BesideOthers.refl (s : State) : BesideOthers s s := ⟨s, .refl, rfl⟩

theorem BesideOthers.withSeq (h : BesideOthers s t) (n : Nat) (q : SeqState) :
    BesideOthers s (t.withSeq n q) := by
  obtain ⟨u, hu, ht⟩ := h
  exact ⟨u, hu, by rw [ht]; rfl⟩

theorem BesideOthers.draw (h : BesideOthers s t) : BesideOthers s (afterDraw t) := by
  obtain ⟨u, hu, ht⟩ := h
  exact ⟨afterDraw u, hu.draw, by rw [ht]; rfl⟩

theorem BesideOthers.others (h : BesideOthers s t) : BesideOthers s (letOthersStep t) := by
  obtain ⟨u, hu, ht⟩ := h
  rw [ht, letOthersStep_withSeq]
  exact ⟨letOthersStep u, hu.trans (letOthersStep_ran u), rfl⟩

/-- Every primitive of SEQ changes the clock and SEQ alone. -/
theorem besideOthers_keeps (s : State) : SeqKeeps (BesideOthers s) where
  draw _ h := h.draw
  others _ h := h.others
  wait n u h := by rw [wait_eq]; exact h.draw.others.withSeq _ _
  word tag b req seen u h := by rw [sendWord_eq]; exact h.draw.others.withSeq _ _
  pin p l u h := h.withSeq u.now _
  held b u h := h.withSeq u.now _
  ti k u h := h.withSeq u.now _

theorem initseqBody_besideOthers (s : State) : (initseqBody s).Ends (BesideOthers s) :=
  initseqBody_ends (besideOthers_keeps s) (fun u h => h.withSeq u.now _) (fun u h => h.withSeq u.now _)
    (.refl s)

/-- An operation that is done: the other agents' state, with PC past the operation. -/
theorem BesideOthers.finish_done (h : BesideOthers s t) (o : Opcode) :
    ∃ u, OthersRan s u
      ∧ finish o s (.done t) = .next { u with pc := s.pc + o.len, now := t.now, seq := t.seq } := by
  obtain ⟨u, hu, ht⟩ := h
  refine ⟨u, hu, ?_⟩
  rw [finish_eq, complete_done, ht, ← hu.pc_eq]
  rfl

/-- An operation stopped by a fault: the other agents' state, with PC kept. -/
theorem BesideOthers.finish_raised (h : BesideOthers s t) (o : Opcode) (c : FaultCode) (n : Nat) :
    ∃ u, OthersRan s u
      ∧ finish o s (.raised t c n)
        = .next { u with now := t.now, seq := t.seq, fault := some ⟨c, s.pc, n⟩ } := by
  obtain ⟨u, hu, ht⟩ := h
  refine ⟨u, hu, ?_⟩
  rw [finish_eq, complete_raised, ht, ← hu.pc_eq]
  rfl

end

/-! ### Words -/

/-- A word that is sent, as the end of an operation. -/
theorem finish_sendWord (o : Opcode) (tag : Tag) (b : Byte) (req : Nat) (seen : Bool) (s : State) :
    finish o s (.done (sendWord tag b req seen s))
      = .next
          { letOthersStep (afterDraw s) with
            pc := s.pc + o.len
            now := s.now + drawVal s
            seq :=
              { s.seq with
                log := s.seq.log ++ [.word s.now tag b seen]
                busy := false
                curReq := if seen then (if tag = .command then req else s.seq.curReq) else s.seq.curReq
                quietUntil :=
                  if seen then
                    max s.seq.quietUntil
                      (s.now + drawVal s + (if tag = .command then req else s.seq.curReq))
                  else s.seq.quietUntil } } := by
  rw [finish_eq, complete_done, sendWord_eq]
  simp [advancePc, State.withSeq]

theorem afterDraw_others_ran (s : State) : OthersRan s (letOthersStep (afterDraw s)) :=
  OthersRan.refl.draw.trans (letOthersStep_ran _)

theorem panelReady_iff (s : State) :
    panelReady s = true ↔ ∃ r, s.seq.panelReadyAt = some r ∧ r ≤ s.now := by
  unfold panelReady
  cases s.seq.panelReadyAt <;> simp

theorem checkAndSend_not_ready {s : State} (h : panelReady s = false) (tag : Tag) (b : Byte) (req : Nat) :
    checkAndSend tag b req true s = .raised s .panelNotReady s.now := by
  simp [checkAndSend, h]

theorem checkAndSend_unsettled {s : State} (hr : panelReady s = true) (hs : s.now < s.seq.settleUntil)
    (tag : Tag) (b : Byte) (req : Nat) :
    checkAndSend tag b req true s = .raised s .delayHazard (s.seq.settleUntil - s.now) := by
  simp [checkAndSend, hr, hs]

theorem checkAndSend_command_owed {s : State} (hr : panelReady s = true)
    (hs : s.seq.settleUntil ≤ s.now) (hq : s.now < s.seq.quietUntil) (b : Byte) (req : Nat) :
    checkAndSend .command b req true s = .raised s .delayHazard (s.seq.quietUntil - s.now) := by
  simp [checkAndSend, hr, hq, Nat.not_lt.mpr hs]

/-- Settles O10: the three checks pass, so the word is sent. -/
theorem wrcmdSendsCommandWord : Obligations.WrcmdSendsCommandWord := by
  intro s c r hcs hr hready hsettled hquiet
  refine ⟨_, afterDraw_others_ran s, ?_⟩
  rw [exec, execWrcmd, xmitWord_lo hcs,
    checkAndSend_seen_done ((panelReady_iff s).mpr ⟨r, hr, hready⟩) hsettled (fun _ => hquiet),
    finish_sendWord]
  rfl

/-- Settles O11: the check of the owed delay is for commands alone. -/
theorem wrdataSendsDataWord : Obligations.WrdataSendsDataWord := by
  intro s b r hcs hr hready hsettled
  refine ⟨_, afterDraw_others_ran s, ?_⟩
  rw [exec, execWrdata, xmitWord_lo hcs,
    checkAndSend_seen_done ((panelReady_iff s).mpr ⟨r, hr, hready⟩) hsettled (by simp), finish_sendWord]
  rfl

/-- Settles O12: with chip-select at 1 no check runs. -/
theorem unseenWordIsOnlyLogged : Obligations.UnseenWordIsOnlyLogged := by
  intro s b hcs
  refine ⟨_, afterDraw_others_ran s, ?_, ?_⟩
  · rw [exec, execWrcmd, xmitWord_hi hcs, finish_sendWord]
    rfl
  · rw [exec, execWrdata, xmitWord_hi hcs, finish_sendWord]
    rfl

/-- Settles O14: the first check stops either word. -/
theorem wordBeforePanelReadyFaults : Obligations.WordBeforePanelReadyFaults := by
  intro s b hcs h
  have hr : panelReady s = false := by
    rw [Bool.eq_false_iff, Ne, panelReady_iff]
    rintro ⟨r, hr, hle⟩
    rcases h with h | ⟨r', h, hlt⟩
    · simp [h] at hr
    · obtain rfl : r' = r := by simpa [h] using hr
      omega
  constructor
  · rw [exec, execWrcmd, xmitWord_lo hcs, checkAndSend_not_ready hr]
    rfl
  · rw [exec, execWrdata, xmitWord_lo hcs, checkAndSend_not_ready hr]
    rfl

/-- Settles O15: the second check stops either word, the third a command. -/
theorem earlyWordIsADelayHazard : Obligations.EarlyWordIsADelayHazard := by
  intro s b r hcs hr hready
  have hpanel : panelReady s = true := (panelReady_iff s).mpr ⟨r, hr, hready⟩
  refine ⟨fun hs => ⟨?_, ?_⟩, fun hs hq => ?_⟩
  · rw [exec, execWrcmd, xmitWord_lo hcs, checkAndSend_unsettled hpanel hs]
    rfl
  · rw [exec, execWrdata, xmitWord_lo hcs, checkAndSend_unsettled hpanel hs]
    rfl
  · rw [exec, execWrcmd, xmitWord_lo hcs, checkAndSend_command_owed hpanel hs hq]
    rfl

/-! ### A word beside chip-select's level

Once it is decided whether a word is seen, the level of chip-select plays no part in it. -/

/-- `s` with chip-select at `l`. -/
def State.withCs (s : State) (l : Level) : State := { s with seq := { s.seq with csLevel := l } }

/-- A sub-step's end with the state changed by `f`. -/
def Sub.map (f : State → State) : Sub → Sub
  | .done s => .done (f s)
  | .raised s c n => .raised (f s) c n
  | .refused q => .refused q

theorem withCs_withCs_self {s : State} {l : Level} (h : s.seq.csLevel = l) (l' : Level) :
    (s.withCs l').withCs l = s := by
  subst h; rfl

theorem sendWord_withCs (tag : Tag) (b : Byte) (req : Nat) (seen : Bool) (s : State) (l : Level) :
    sendWord tag b req seen (s.withCs l) = (sendWord tag b req seen s).withCs l := by
  have e : s.withCs l = s.withSeq s.now { s.seq with csLevel := l } := rfl
  rw [sendWord_eq, sendWord_eq, e, afterDraw_withSeq, letOthersStep_withSeq]
  rfl

theorem checkAndSend_withCs (tag : Tag) (b : Byte) (req : Nat) (seen : Bool) (s : State) (l : Level) :
    checkAndSend tag b req seen (s.withCs l) = (checkAndSend tag b req seen s).map (·.withCs l) := by
  unfold checkAndSend
  rw [apply_ite (Sub.map _), apply_ite (Sub.map _), apply_ite (Sub.map _), sendWord_withCs]
  rfl

/-- A word whose fate is a draw, beside the same word with chip-select at the drawn level `l`. -/
theorem finish_xmitWord_undriven {s u : State} {l : Level} (hcs : s.seq.csLevel = .x)
    (hl : l = if drawVal s % 2 = 1 then .lo else .hi) (o : Opcode) {tag : Tag} {b : Byte} {req : Nat}
    (h : finish o ((afterDraw s).withCs l) (xmitWord tag b req ((afterDraw s).withCs l)) = .next u) :
    finish o s (xmitWord tag b req s) = .next (u.withCs .x) := by
  have hseen : xmitWord tag b req ((afterDraw s).withCs l)
      = (checkAndSend tag b req (drawBool s) (afterDraw s)).map (·.withCs l) := by
    by_cases hd : drawVal s % 2 = 1
    · have hlo : l = .lo := by simp [hl, hd]
      have hb : drawBool s = true := by simp [drawBool, hd]
      rw [xmitWord_lo (by simp [State.withCs, hlo]), checkAndSend_withCs, hb]
    · have hhi : l = .hi := by simp [hl, hd]
      have hb : drawBool s = false := by simp [drawBool, hd]
      rw [xmitWord_hi (by simp [State.withCs, hhi]), ← checkAndSend_unseen, checkAndSend_withCs, hb]
  rw [hseen] at h
  rw [xmitWord_x hcs]
  rcases checkAndSend_cases tag b req (drawBool s) (afterDraw s) with ⟨hc, -⟩ | ⟨n, hc, -⟩ | hc <;>
    rw [hc] at h ⊢ <;> cases h
  · exact congrArg _ (withCs_withCs_self (s := raiseFault _ _ (afterDraw s)) hcs l).symm
  · exact congrArg _ (withCs_withCs_self (s := raiseFault _ _ (afterDraw s)) hcs l).symm
  · exact congrArg _ (withCs_withCs_self (s := advancePc _ (sendWord _ _ _ _ (afterDraw s)))
      (by simpa using hcs) l).symm

/-- Settles O13: the draw decides whether the word is seen, and the level plays no other part. -/
theorem undrivenChipSelectIsADraw : Obligations.UndrivenChipSelectIsADraw := by
  intro s u b l hcs hl
  exact ⟨fun h => finish_xmitWord_undriven hcs hl .wrcmd h,
    fun h => finish_xmitWord_undriven hcs hl .wrdata h⟩

/-! ### The output lines -/

/-- Driving a pin that is neither line. -/
theorem pinEffect_other {p : Params} {pin : BitVec 8} (hc : pin ≠ p.csPin) (hr : pin ≠ p.rstPin)
    (now : Nat) (l : Bool) (q : SeqState) :
    pinEffect p now pin l q = { q with log := q.log ++ [.edge now pin l] } := by
  simp [pinEffect, hc, hr]

/-- Settles O16: one equation per line and level. -/
theorem setpinDrivesTheLines : Obligations.SetpinDrivesTheLines := by
  intro s p l hp
  refine ⟨advancePc 1 (s.withSeq s.now (pinEffect s.cfg s.now p l s.seq)), ?_, rfl, ?_, ?_, ?_, ?_, ?_⟩
  · rw [exec, execSetpin, setPin_done hp]
    rfl
  · rintro rfl
    exact pinEffect_csPin hp _ _ _
  · rintro rfl rfl
    refine (pinEffect_rstPin hp _ _ _).trans ((resetLine_low _ _).trans ?_)
    cases s.seq.rstLowAt <;> rfl
  · rintro rfl rfl hlow
    exact (pinEffect_rstPin hp _ _ _).trans (resetLine_high_untimed (by exact hlow) _)
  · rintro a rfl rfl hlow
    exact (pinEffect_rstPin hp _ _ _).trans (resetLine_high_timed (by exact hlow) _)
  · exact fun hc hr => pinEffect_other hc hr _ _ _

/-! ### Waits -/

theorem otherSteps_can_running {s : State} (h : s.can.phase = .running) :
    ∃ as, otherSteps s = .canRx :: .canBusErr :: .canErrPass :: as := by
  simp [otherSteps, canEnabled, h]

/-- Any event of the CAN bus can be the other agents' next step, by one draw or two. -/
theorem exists_otherStep_canStep {s : State} (h : s.can.phase = .running) (e : CanEvent) :
    ∃ ns k, ∀ sc, otherStep { s with script := ns ++ sc }
      = canStep e { s with draws := s.draws + k, script := sc } := by
  obtain ⟨as, has⟩ := otherSteps_can_running h
  have hsteps : ∀ sc, otherSteps { s with script := sc } = .canRx :: .canBusErr :: .canErrPass :: as :=
    fun _ => has
  have key : ∀ a ∈ otherSteps s, ∃ n, ∀ sc, otherStep { s with script := n :: sc }
      = agentStep a { s with draws := s.draws + 1, script := sc } := by
    intro a ha
    obtain ⟨n, hn⟩ := chosen_of_mem ha s
    refine ⟨n, fun sc => ?_⟩
    have hc : chosen (otherSteps { s with script := n :: sc }) { s with script := n :: sc } = some a :=
      hn sc
    rw [otherStep, hc, hsteps]
    rfl
  cases e with
  | rx f =>
    obtain ⟨n, hn⟩ := key .canRx (by simp [has])
    exact ⟨[n, f.token], 2, fun sc => hn (f.token :: sc)⟩
  | busErr =>
    obtain ⟨n, hn⟩ := key .canBusErr (by simp [has])
    exact ⟨[n], 1, hn⟩
  | errPass =>
    obtain ⟨n, hn⟩ := key .canErrPass (by simp [has])
    exact ⟨[n], 1, hn⟩

theorem foldl_canStep_can_congr {s u : State} (hcfg : u.cfg = s.cfg) (hcan : u.can = s.can)
    (es : List CanEvent) :
    (es.foldl (fun v e => canStep e v) u).can = (es.foldl (fun v e => canStep e v) s).can := by
  induction es generalizing s u with
  | nil => exact hcan
  | cons e es ih =>
    exact ih (by rw [canStep_cfg, canStep_cfg, hcfg]) (canStep_can_congr hcfg hcan e)

/-- Bus events whose frames are given take no draw. -/
theorem foldl_canStep_draws (es : List CanEvent) (s : State) (n : Nat) :
    (es.foldl (fun v e => canStep e v) { s with draws := n }).can
      = (es.foldl (fun v e => canStep e v) s).can :=
  foldl_canStep_can_congr (s := s) (u := { s with draws := n }) rfl rfl es

/-- Any list of bus events can be what the other agents do. -/
theorem exists_othersStep_canSteps (es : List CanEvent) {s : State} (h : s.can.phase = .running) :
    ∃ sc, (othersStep es.length { s with script := sc }).can
      = (es.foldl (fun u e => canStep e u) s).can := by
  induction es generalizing s with
  | nil => exact ⟨[], rfl⟩
  | cons e es ih =>
    obtain ⟨ns, k, hfirst⟩ := exists_otherStep_canStep h e
    obtain ⟨sc, hrest⟩ := ih (s := canStep e { s with draws := s.draws + k })
      ((canStep_can_phase ..).trans h)
    have hstate : { canStep e { s with draws := s.draws + k } with script := sc }
        = canStep e { s with draws := s.draws + k, script := sc } := by
      cases e <;> rfl
    refine ⟨ns ++ sc, ?_⟩
    rw [List.length_cons, othersStep, hfirst, ← hstate, hrest]
    exact foldl_canStep_draws (e :: es) s _

/-- During a Wait any list of bus events can come, while CAN runs. -/
theorem exists_letOthersStep_canSteps {s : State} (h : s.can.phase = .running) (es : List CanEvent) :
    ∃ sc, (letOthersStep { s with script := sc }).can = (es.foldl (fun u e => canStep e u) s).can := by
  obtain ⟨as, has⟩ := otherSteps_can_running h
  obtain ⟨sc, hsc⟩ := exists_othersStep_canSteps es (s := { s with draws := s.draws + 1 }) h
  refine ⟨es.length :: sc, ?_⟩
  have hsteps : otherSteps { s with script := es.length :: sc }
    = .canRx :: .canBusErr :: .canErrPass :: as := has
  rw [letOthersStep, hsteps]
  exact hsc.trans (foldl_canStep_draws es s _)

/-- Settles O17: a wait is drawn, and so is what the other agents do in it. -/
theorem delayWaitsAtLeastItsOperand : Obligations.DelayWaitsAtLeastItsOperand := by
  intro s n
  refine ⟨⟨n + drawVal s, letOthersStep (afterDraw s), Nat.le_add_right _ _, afterDraw_others_ran s, ?_⟩,
    fun d es hd hrun => ?_⟩
  · rw [exec, execDelay, finish_eq, complete_done, wait_eq]
    simp [advancePc, State.withSeq]
    rfl
  · obtain ⟨sc, hsc⟩ := exists_letOthersStep_canSteps (s := { s with draws := s.draws + 1 }) hrun es
    have hd' : drawVal { s with script := (d - n) :: sc } = d - n := rfl
    refine ⟨(d - n) :: sc, _, rfl, ?_, ?_⟩
    · rw [complete_done, advancePc, wait_now, hd', Nat.add_sub_cancel' hd]
    · rw [complete_done, wait_eq]
      exact hsc.trans (foldl_canStep_draws es s _)

/-! ### Chip-select and panel reset -/

/-- Settles O18: the bracket's equations. -/
theorem chipSelectBracketCompletes : Obligations.ChipSelectBracketCompletes := by
  intro s hp
  have hpast : 10 ≤ tCs + drawVal (letOthersStep s) := Nat.le_add_right _ _
  have hkeeps := besideOthers_keeps s
  refine ⟨fun hheld => ?_, fun hheld => ?_⟩
  · have hend := csEnable_ends hkeeps (.refl s)
    rw [csEnable_done hp hheld] at hend
    obtain ⟨u, hu, he⟩ := BesideOthers.finish_done hend .csen
    exact ⟨_, u, hpast, hu, by rw [exec, execCsen, csEnable_done hp hheld, he]; rfl⟩
  · have hend := csDisable_ends hkeeps (.refl s)
    rw [csDisable_done hp hheld] at hend
    obtain ⟨u, hu, he⟩ := BesideOthers.finish_done hend .csdis
    exact ⟨_, u, hpast, hu, by rw [exec, execCsdis, csDisable_done hp hheld, he]; rfl⟩

/-- Settles O19: the pairing is checked first. -/
theorem unpairedChipSelectFaults : Obligations.UnpairedChipSelectFaults := by
  refine fun s => ⟨fun h => ?_, fun h => ?_⟩
  · rw [exec, execCsen, csEnable, if_pos h]
    rfl
  · rw [exec, execCsdis, csDisable, if_neg (by simp [h])]
    rfl

/-- The reset line's edge to 0. -/
theorem pinEffect_reset {p : Params} (hp : p.rstPin ≠ p.csPin) (now : Nat) (q : SeqState) :
    pinEffect p now p.rstPin false q
      = { q with
          log := q.log ++ [.edge now p.rstPin false]
          rstLevel := .lo
          rstLowAt := some (q.rstLowAt.getD now)
          panelReadyAt := none } :=
  (pinEffect_rstPin hp ..).trans (resetLine_low ..)

/-- The reset line's edge to 1 after a low time that was long enough. -/
theorem pinEffect_release {p : Params} (hp : p.rstPin ≠ p.csPin) {now a : Nat} {q : SeqState}
    (ha : q.rstLowAt = some a) (hlong : tRstLow ≤ now - a) :
    pinEffect p now p.rstPin true q
      = { q with
          log := q.log ++ [.edge now p.rstPin true]
          rstLevel := .hi
          rstLowAt := none
          panelReadyAt := some (now + tRstWait) } := by
  rw [pinEffect_rstPin hp, resetLine_high_timed (by exact ha), if_pos hlong]

/-- PRESET's effect on the clock and SEQ: the low time is on record from the edge to 0, or from before it,
so it is long enough at the release. -/
theorem presetBody_done {s : State} (hp : s.cfg.rstPin ≠ s.cfg.csPin)
    (hlow : ∀ a, s.seq.rstLowAt = some a → a ≤ s.now) :
    ∃ d1 d2 t, 10 ≤ d1 ∧ 50 ≤ d2 ∧ presetBody s = .done t ∧ t.now = s.now + d1 + d2
      ∧ t.seq
        = { s.seq with
            log :=
              s.seq.log
                ++ [.edge s.now s.cfg.rstPin false, .delay s.now 10 d1,
                    .edge (s.now + d1) s.cfg.rstPin true, .delay (s.now + d1) 50 d2]
            rstLevel := .hi
            rstLowAt := none
            panelReadyAt := some (s.now + d1 + 50) } := by
  have hlong : ∀ d, tRstLow ≤ s.now + (tRstLow + d) - s.seq.rstLowAt.getD s.now := by
    intro d
    cases h : s.seq.rstLowAt with
    | none => simp
    | some a => have := hlow a h; simp only [Option.getD_some]; omega
  obtain ⟨v, hv⟩ : ∃ v, v = wait tRstLow (letOthersStep (s.withSeq s.now
      (pinEffect s.cfg s.now s.cfg.rstPin false s.seq))) := ⟨_, rfl⟩
  have hcfg : v.cfg = s.cfg := by simp [hv]
  have hnow : v.now = s.now + (tRstLow + drawVal (letOthersStep s)) := by simp [hv]
  have hseq : v.seq
      = { s.seq with
          log :=
            s.seq.log
              ++ [.edge s.now s.cfg.rstPin false,
                  .delay s.now tRstLow (tRstLow + drawVal (letOthersStep s))]
          rstLevel := .lo
          rstLowAt := some (s.seq.rstLowAt.getD s.now)
          panelReadyAt := none } := by simp [hv, pinEffect_reset hp]
  have hrelease := pinEffect_release (p := v.cfg) (q := v.seq) (now := v.now) (hcfg ▸ hp) (hseq ▸ rfl)
    (hnow ▸ hlong _)
  refine ⟨tRstLow + drawVal (letOthersStep s), tRstWait + drawVal (letOthersStep v),
    wait tRstWait (letOthersStep (v.withSeq v.now (pinEffect v.cfg v.now v.cfg.rstPin true v.seq))),
    Nat.le_add_right _ _, Nat.le_add_right _ _, ?_, ?_, ?_⟩
  · rw [presetBody, setPin_done hp, Sub.done_andThen, ← hv, ← hcfg, setPin_done (hcfg ▸ hp)]
    rfl
  · simp [hnow]
  · rw [wait_seq, letOthersStep_withSeq, withSeq_seq, hrelease, withSeq_now, hseq, hnow, hcfg]
    simp [tRstLow, tRstWait]

/-- Settles O20: PRESET's equation, beside the other agents. -/
theorem presetMakesThePanelReady : Obligations.PresetMakesThePanelReady := by
  intro s hp hlow
  obtain ⟨d1, d2, t, h1, h2, ht, hnow, hseq⟩ := presetBody_done hp hlow
  have hend := presetBody_ends (besideOthers_keeps s) (.refl s)
  rw [ht] at hend
  obtain ⟨u, hu, he⟩ := BesideOthers.finish_done hend .preset
  exact ⟨d1, d2, u, h1, h2, hu, by rw [exec, execPreset, ht, he, hnow, hseq]; rfl⟩

end Sys2Proof.Machine
end

section
/-! PROOFS. Family 41_sequencer: INITSEQ (O21 to O25).

INITSEQ is a bracket (`initseqBody_opens`, `initseqBody_closes`) around the replay of the transcript. What a
replay that is done has sent is said once, by `replay_sent`: the shapes of its events, that they follow
one another in time, and what the last command owes. `replay_completes` says when it is done. -/

namespace Sys2Proof.Machine

/-! ### Shapes of events -/

/-- The time an event of this shape asks for at least. -/
def EventShape.minimum : EventShape → Nat
  | .word _ _ _ => 0
  | .edge _ _ => 0
  | .delay n => n

/-- The (tag, byte) of a word. -/
def EventShape.word? : EventShape → Option (Tag × Byte)
  | .word tag b _ => some (tag, b)
  | .edge _ _ => none
  | .delay _ => none

theorem Event.word?_shape (e : Event) : e.shape.word? = e.word? := by cases e <;> rfl

/-- The words of a log segment are those of its shapes. -/
theorem wordsOf_eq (es : List Event) : wordsOf es = (es.map Event.shape).filterMap EventShape.word? := by
  rw [wordsOf, List.filterMap_map]
  exact List.filterMap_congr fun e _ => e.word?_shape.symm

/-- A segment lasts at least what its events ask for. -/
theorem EventsRun.minimum_le {es : List Event} :
    ∀ {a b : Nat}, EventsRun a es b → a + ((es.map Event.shape).map EventShape.minimum).sum ≤ b := by
  induction es with
  | nil => intro a b h; exact h.le
  | cons e es ih =>
    intro a b h
    cases e with
    | edge t p l => have := ih h.2; simpa [Event.shape, EventShape.minimum] using this
    | delay t n d =>
      obtain ⟨-, hn, hrest⟩ := h
      have := ih hrest
      simp only [List.map_cons, List.sum_cons, Event.shape, EventShape.minimum]
      omega
    | word t tag b seen =>
      obtain ⟨-, a', ha, hrest⟩ := h
      have := ih hrest
      simp only [List.map_cons, List.sum_cons, Event.shape, EventShape.minimum]
      omega

/-- The shapes one transcript entry leaves in the log (R156): its words, all seen, then its wait. -/
def entryShapes (e : TranscriptEntry) : List EventShape :=
  EventShape.word .command e.cmd true :: e.data.map (fun b => EventShape.word .data b true)
    ++ if 0 < e.postDelay then [EventShape.delay e.postDelay] else []

theorem entryShapes_words (e : TranscriptEntry) :
    (entryShapes e).filterMap EventShape.word? = entryWords e := by
  have hdata : ∀ bs : List Byte, (bs.map fun b => EventShape.word .data b true).filterMap EventShape.word?
      = bs.map fun b => (Tag.data, b) := by
    intro bs
    induction bs with
    | nil => rfl
    | cons b bs ih => simp [EventShape.word?, ih]
  unfold entryShapes entryWords
  split <;> simp [EventShape.word?, hdata]

theorem entryShapes_minimum (e : TranscriptEntry) :
    ((entryShapes e).map EventShape.minimum).sum = e.postDelay := by
  have hdata : ∀ bs : List Byte,
      ((bs.map fun b => EventShape.word .data b true).map EventShape.minimum).sum = 0 := by
    intro bs
    induction bs with
    | nil => rfl
    | cons b bs ih => simpa [EventShape.minimum] using ih
  unfold entryShapes
  rw [List.cons_append, List.map_cons, List.sum_cons, List.map_append, List.sum_append, hdata]
  by_cases hpos : 0 < e.postDelay
  · simp [hpos, EventShape.minimum]
  · simp only [if_neg hpos, EventShape.minimum, List.map_nil, List.sum_nil]
    omega

theorem mem_entryShapes {e : TranscriptEntry} {x : EventShape} (h : x ∈ entryShapes e) :
    (∃ tag b, x = .word tag b true) ∨ ∃ n, x = .delay n := by
  unfold entryShapes at h
  rcases List.mem_append.mp h with h | h
  · rcases List.mem_cons.mp h with rfl | h
    · exact .inl ⟨_, _, rfl⟩
    · obtain ⟨b, -, rfl⟩ := List.mem_map.mp h
      exact .inl ⟨_, _, rfl⟩
  · split at h
    · exact .inr ⟨_, List.mem_singleton.mp h⟩
    · cases h

theorem transcriptShapes_words (es : List TranscriptEntry) :
    (es.flatMap entryShapes).filterMap EventShape.word? = transcriptWords es := by
  rw [List.filterMap_flatMap]
  simp only [entryShapes_words, transcriptWords]

theorem transcriptShapes_minimum (es : List TranscriptEntry) :
    ((es.flatMap entryShapes).map EventShape.minimum).sum = transcriptDelay es := by
  induction es with
  | nil => rfl
  | cons e es ih =>
    rw [List.flatMap_cons, List.map_append, List.sum_append, entryShapes_minimum, ih]
    rfl

/-! ### What is sent while chip-select is at 0 -/

/-- From `s` to `t`, HOST has appended `evs` to the log, which fill the time between, and has left the
lines, the settle time and the marks of SEQ. -/
structure Sent (s : State) (evs : List Event) (t : State) : Prop where
  cfg : t.cfg = s.cfg
  log : t.seq.log = s.seq.log ++ evs
  run : EventsRun s.now evs t.now
  rest : t.seq
    = { s.seq with
        log := t.seq.log, busy := t.seq.busy, curReq := t.seq.curReq, quietUntil := t.seq.quietUntil
        ti := t.seq.ti }

section
variable {s t u : State} {evs evs' : List Event}

theorem Sent.refl (s : State) : Sent s [] s := ⟨rfl, by simp, rfl, rfl⟩

theorem Sent.trans (h : Sent s evs t) (h' : Sent t evs' u) : Sent s (evs ++ evs') u where
  cfg := h'.cfg.trans h.cfg
  log := by rw [h'.log, h.log, List.append_assoc]
  run := h.run.append h'.run
  rest := by rw [h'.rest, h.rest]

/-- The other agents append nothing. -/
theorem Sent.others (h : Sent s evs t) : Sent s evs (letOthersStep t) where
  cfg := (letOthersStep_cfg t).trans h.cfg
  log := by rw [letOthersStep_seq, h.log]
  run := by rw [letOthersStep_now]; exact h.run
  rest := by rw [letOthersStep_seq]; exact h.rest

theorem sent_setTi (k : Nat) (s : State) : Sent s [] (setTi k s) := ⟨rfl, by simp, rfl, rfl⟩

theorem sent_wait (n : Nat) (s : State) : Sent s [.delay s.now n (n + drawVal s)] (wait n s) where
  cfg := wait_cfg n s
  log := by simp
  run := ⟨rfl, Nat.le_add_right _ _, (wait_now n s).symm⟩
  rest := by simp

theorem sent_word (tag : Tag) (b : Byte) (req : Nat) (seen : Bool) (s : State) :
    Sent s [.word s.now tag b seen] (sendWord tag b req seen s) where
  cfg := sendWord_cfg ..
  log := sendWord_seq_log ..
  run := ⟨rfl, _, Nat.le_add_right _ _, (sendWord_now tag b req seen s).symm⟩
  rest := by rw [sendWord_eq]; rfl

theorem Sent.now_le (h : Sent s evs t) : s.now ≤ t.now :=
  (Nat.le_add_right _ _).trans h.run.minimum_le

theorem Sent.csLevel (h : Sent s evs t) : t.seq.csLevel = s.seq.csLevel := by rw [h.rest]
theorem Sent.csHeld (h : Sent s evs t) : t.seq.csHeld = s.seq.csHeld := by rw [h.rest]
theorem Sent.rstLevel (h : Sent s evs t) : t.seq.rstLevel = s.seq.rstLevel := by rw [h.rest]
theorem Sent.rstLowAt (h : Sent s evs t) : t.seq.rstLowAt = s.seq.rstLowAt := by rw [h.rest]
theorem Sent.panelReadyAt (h : Sent s evs t) : t.seq.panelReadyAt = s.seq.panelReadyAt := by rw [h.rest]
theorem Sent.settleUntil (h : Sent s evs t) : t.seq.settleUntil = s.seq.settleUntil := by rw [h.rest]

/-- What the last command owes counts from now: a word has just ended. -/
def Owing (req : Nat) (s : State) : Prop :=
  s.seq.curReq = req ∧ s.seq.quietUntil = s.now + req

theorem Owing.others {req : Nat} (h : Owing req s) : Owing req (letOthersStep s) := by
  unfold Owing at *
  simpa using h

/-- A word that is sent with chip-select at 0 is a seen one, and a command has found no delay owed. -/
theorem xmitWord_lo_done {tag : Tag} {b : Byte} {req : Nat} (hcs : s.seq.csLevel = .lo)
    (h : xmitWord tag b req s = .done t) :
    t = sendWord tag b req true s ∧ (tag = .command → s.seq.quietUntil ≤ s.now) := by
  rw [xmitWord_lo hcs] at h
  refine ⟨?_, fun hcmd => Nat.le_of_not_lt fun hlt => ?_⟩
  · rcases checkAndSend_cases tag b req true s with ⟨hc, -⟩ | ⟨n, hc, -⟩ | hc <;> rw [hc] at h <;> cases h
    rfl
  · unfold checkAndSend at h
    simp only [hcmd, hlt, decide_true, Bool.and_true, beq_self_eq_true, if_true] at h
    split at h
    · cases h
    · split at h <;> cases h

theorem xmitWord_command_owing {b : Byte} {req : Nat} (hcs : s.seq.csLevel = .lo)
    (h : xmitWord .command b req s = .done t) : Owing req t := by
  obtain ⟨rfl, hquiet⟩ := xmitWord_lo_done hcs h
  have := hquiet rfl
  refine ⟨by simp [sendWord_seq_curReq], ?_⟩
  simp only [sendWord_seq_quietUntil, sendWord_now, if_true]
  omega

/-- A data word pushes the owed delay behind its own end. -/
theorem sendWord_data_owing {b : Byte} {req : Nat} (h : Owing req s) :
    Owing req (sendWord .data b 0 true s) := by
  obtain ⟨hreq, hquiet⟩ := h
  refine ⟨by simpa [sendWord_seq_curReq] using hreq, ?_⟩
  simp only [sendWord_seq_quietUntil, sendWord_now, if_true, hreq, hquiet, reduceCtorEq, if_false]
  omega

/-- The data words of an entry that are done. -/
theorem sendData_sent {bs : List Byte} {req : Nat} :
    ∀ {s t : State}, s.seq.csLevel = .lo → Owing req s → sendData bs s = .done t →
      ∃ evs, Sent s evs t ∧ evs.map Event.shape = bs.map (fun b => EventShape.word .data b true)
        ∧ Owing req t := by
  induction bs with
  | nil => rintro s t - ho ⟨⟩; exact ⟨[], .refl s, rfl, ho⟩
  | cons b bs ih =>
    intro s t hcs ho h
    obtain ⟨u, hu, hrest⟩ := Sub.andThen_eq_done.mp h
    obtain ⟨rfl, -⟩ := xmitWord_lo_done hcs hu
    have hsent := (sent_word .data b 0 true s).others
    obtain ⟨evs, hevs, hshape, ho'⟩ :=
      ih (hsent.csLevel.trans hcs) (sendWord_data_owing ho).others hrest
    exact ⟨_, hsent.trans hevs, by simp [hshape, Event.shape], ho'⟩

/-- After the events `evs` of a replay, the last of which are those of the entry `e`, the scoreboard holds
what `e`'s command owes, counted from the end `w` of the last word. -/
structure EntryOwes (req : Nat) (e : TranscriptEntry) (evs : List Event) (t : State) : Prop where
  curReq : t.seq.curReq = req
  quiet : ∃ w, t.seq.quietUntil = w + req
    ∧ (e.postDelay = 0 → w = t.now)
    ∧ (0 < e.postDelay → ∃ m d, evs = m ++ [.delay w e.postDelay d] ∧ e.postDelay ≤ d ∧ w + d = t.now)

theorem EntryOwes.prepend {req : Nat} {e : TranscriptEntry} (h : EntryOwes req e evs t)
    (evs' : List Event) : EntryOwes req e (evs' ++ evs) t := by
  obtain ⟨hreq, w, hquiet, hnone, hwait⟩ := h
  refine ⟨hreq, w, hquiet, hnone, fun hpos => ?_⟩
  obtain ⟨m, d, rfl, hd⟩ := hwait hpos
  exact ⟨evs' ++ m, d, by simp, hd⟩

theorem EntryOwes.others {req : Nat} {e : TranscriptEntry} (h : EntryOwes req e evs t) :
    EntryOwes req e evs (letOthersStep t) := by
  obtain ⟨hreq, hquiet⟩ := h
  exact ⟨by simpa using hreq, by simpa using hquiet⟩

/-- A wait that covers what the command owes leaves nothing owed. -/
theorem EntryOwes.covered {req : Nat} {e : TranscriptEntry} (h : EntryOwes req e evs t)
    (hc : req ≤ e.postDelay) : t.seq.quietUntil ≤ t.now := by
  obtain ⟨-, w, hquiet, hnone, hwait⟩ := h
  rcases Nat.eq_zero_or_pos e.postDelay with h0 | hpos
  · have := hnone h0; omega
  · obtain ⟨m, d, -, hd, hend⟩ := hwait hpos; omega

/-- The wait after an entry's words. -/
theorem entryWait_sent {req : Nat} (e : TranscriptEntry) (ho : Owing req s) :
    ∃ evs, Sent s evs (entryWait e s)
      ∧ evs.map Event.shape = (if 0 < e.postDelay then [EventShape.delay e.postDelay] else [])
      ∧ EntryOwes req e evs (entryWait e s) := by
  obtain ⟨hreq, hquiet⟩ := ho
  unfold entryWait
  by_cases hpos : 0 < e.postDelay
  · simp only [if_pos hpos]
    refine ⟨_, sent_wait _ s, rfl, by simpa using hreq, s.now, by simpa using hquiet, by omega, fun _ => ?_⟩
    exact ⟨[], _, rfl, Nat.le_add_right _ _, (wait_now _ s).symm⟩
  · simp only [if_neg hpos]
    exact ⟨[], .refl s, rfl, hreq, s.now, hquiet, fun _ => rfl, fun h => absurd h hpos⟩

/-- An entry that is done. -/
theorem sendEntry_sent {e : TranscriptEntry} (hcs : s.seq.csLevel = .lo) (h : sendEntry e s = .done t) :
    ∃ evs, Sent s evs t ∧ evs.map Event.shape = entryShapes e
      ∧ EntryOwes (entryReq s.cfg e) e evs t := by
  obtain ⟨v, hv, hwait⟩ := Sub.andThen_eq_done.mp h
  obtain ⟨u, hu, hdata⟩ := Sub.andThen_eq_done.mp hv
  have ho := xmitWord_command_owing hcs hu
  obtain ⟨rfl, -⟩ := xmitWord_lo_done hcs hu
  have hcmd := (sent_word .command e.cmd (entryReq s.cfg e) true s).others
  obtain ⟨evs, hevs, hshape, ho'⟩ := sendData_sent (hcmd.csLevel.trans hcs) ho.others hdata
  obtain ⟨evs', hevs', hshape', howes⟩ := entryWait_sent e ho'.others
  cases hwait
  exact ⟨_, (hcmd.trans hevs.others).trans hevs', by simp [hshape, hshape', Event.shape, entryShapes],
    howes.prepend _⟩

/-- A replay that is done. -/
theorem replay_sent {es : List TranscriptEntry} :
    ∀ {k : Nat} {s t : State}, s.seq.csLevel = .lo → replay k es s = .done t →
      ∃ evs, Sent s evs t ∧ evs.map Event.shape = es.flatMap entryShapes
        ∧ ∀ e ∈ es.getLast?, EntryOwes (entryReq s.cfg e) e evs t := by
  induction es with
  | nil => rintro k s t - ⟨⟩; exact ⟨[], .refl s, rfl, by simp⟩
  | cons e es ih =>
    intro k s t hcs h
    obtain ⟨u, hu, hrest⟩ := Sub.andThen_eq_done.mp h
    obtain ⟨evs, hevs, hshape, howes⟩ := sendEntry_sent (s := setTi k s) hcs hu
    have hsent := ((sent_setTi k s).trans hevs).others
    obtain ⟨evs', hevs', hshape', howes'⟩ := ih (hsent.csLevel.trans hcs) hrest
    refine ⟨_, hsent.trans hevs', by simp [hshape, hshape'], fun l hl => ?_⟩
    cases es with
    | nil =>
      obtain rfl : evs' = [] := List.map_eq_nil_iff.mp hshape'
      obtain rfl : l = e := by simpa using hl.symm
      cases hrest
      rw [List.append_nil, List.nil_append]
      exact howes.others
    | cons e' es' =>
      rw [List.getLast?_cons_cons] at hl
      exact (hsent.cfg ▸ howes' l hl).prepend _

/-! ### When a replay is done -/

/-- Chip-select is at 0, the panel ready and the settle time over. -/
structure Talking (s : State) : Prop where
  selected : s.seq.csLevel = .lo
  ready : panelReady s = true
  settled : s.seq.settleUntil ≤ s.now

theorem Talking.later (h : Talking s) (hs : Sent s evs t) : Talking t where
  selected := hs.csLevel.trans h.selected
  ready := by
    obtain ⟨r, hr, hle⟩ := (panelReady_iff s).mp h.ready
    exact (panelReady_iff t).mpr ⟨r, hs.panelReadyAt.trans hr, hle.trans hs.now_le⟩
  settled := by rw [hs.settleUntil]; exact h.settled.trans hs.now_le

theorem sendData_completes (bs : List Byte) :
    ∀ {s : State}, Talking s → ∃ t, sendData bs s = .done t := by
  induction bs with
  | nil => intro s _; exact ⟨s, rfl⟩
  | cons b bs ih =>
    intro s h
    obtain ⟨t, ht⟩ := ih (h.later (sent_word .data b 0 true s).others)
    refine ⟨t, ?_⟩
    rw [sendData, xmitWord_lo h.selected, checkAndSend_seen_done h.ready h.settled (by simp),
      Sub.done_andThen, ht]

theorem sendEntry_completes {e : TranscriptEntry} (h : Talking s) (hq : s.seq.quietUntil ≤ s.now) :
    ∃ t, sendEntry e s = .done t := by
  obtain ⟨u, hu⟩ := sendData_completes e.data
    (h.later (sent_word .command e.cmd (entryReq s.cfg e) true s).others)
  refine ⟨entryWait e (letOthersStep u), ?_⟩
  rw [sendEntry, xmitWord_lo h.selected, checkAndSend_seen_done h.ready h.settled (fun _ => hq),
    Sub.done_andThen, hu, Sub.done_andThen]

/-- With post-delays that cover what each command owes, the replay goes through. -/
theorem replay_completes {es : List TranscriptEntry} :
    ∀ {k : Nat} {s : State}, Talking s → s.seq.quietUntil ≤ s.now →
      (∀ e ∈ es, entryReq s.cfg e ≤ e.postDelay) → ∃ t, replay k es s = .done t := by
  induction es with
  | nil => intro k s _ _ _; exact ⟨s, rfl⟩
  | cons e es ih =>
    intro k s h hq hcover
    have hti := sent_setTi k s
    obtain ⟨u, hu⟩ := sendEntry_completes (e := e) (h.later hti) hq
    obtain ⟨evs, hevs, -, howes⟩ := sendEntry_sent (h.later hti).selected hu
    have hsent := (hti.trans hevs).others
    obtain ⟨t, ht⟩ := ih (k := k + 1) (h.later hsent)
      (howes.others.covered (hcover e List.mem_cons_self))
      (fun e' he' => by rw [hsent.cfg]; exact hcover e' (List.mem_cons_of_mem _ he'))
    exact ⟨t, by rw [replay, hu, Sub.done_andThen, ht]⟩

end

/-! ### The bracket -/

/-- SEQ after CSEN, begun in `s`, has waited `d`. -/
def selectedSeq (s : State) (d : Nat) : SeqState :=
  { s.seq with
    log := s.seq.log ++ [.edge s.now s.cfg.csPin false, .delay s.now 10 d]
    csLevel := .lo, csHeld := true, settleUntil := s.now + 10 }

/-- SEQ after CSDIS, begun in `s`, has waited `d`. -/
def releasedSeq (s : State) (d : Nat) : SeqState :=
  { s.seq with
    log := s.seq.log ++ [.edge s.now s.cfg.csPin true, .delay s.now 10 d]
    csLevel := .hi, csHeld := false, settleUntil := s.now + 10 }

section
variable {s t v : State}

theorem csEnable_selects (hp : s.cfg.rstPin ≠ s.cfg.csPin) (hh : s.seq.csHeld = false) :
    ∃ d u, 10 ≤ d ∧ csEnable s = .done u ∧ u.cfg = s.cfg ∧ u.now = s.now + d
      ∧ u.seq = selectedSeq s d :=
  ⟨_, _, Nat.le_add_right tCs _, csEnable_done hp hh, by simp, rfl, rfl⟩

theorem csDisable_releases (hp : s.cfg.rstPin ≠ s.cfg.csPin) (hh : s.seq.csHeld = true) :
    ∃ d u, 10 ≤ d ∧ csDisable s = .done u ∧ u.now = s.now + d ∧ u.seq = releasedSeq s d :=
  ⟨_, _, Nat.le_add_right tCs _, csDisable_done hp hh, rfl, rfl⟩

/-- How INITSEQ begins: chip-select, then the replay. -/
theorem initseqBody_opens (hp : s.cfg.rstPin ≠ s.cfg.csPin) (hh : s.seq.csHeld = false) :
    ∃ d u, 10 ≤ d ∧ u.cfg = s.cfg ∧ u.now = s.now + d
      ∧ u.seq = { selectedSeq s d with inInitseq := true }
      ∧ initseqBody s
        = ((replay 0 s.cfg.transcript u).andThen csDisable).andThen
            (fun w => .done (endInitseq w)) := by
  obtain ⟨d, u, hd, hu, hcfg, hnow, hseq⟩ := csEnable_selects (s := beginInitseq s) hp hh
  exact ⟨d, letOthersStep u, hd, by rw [letOthersStep_cfg, hcfg, beginInitseq_cfg],
    by rw [letOthersStep_now, hnow, beginInitseq_now], by rw [letOthersStep_seq, hseq]; rfl,
    by rw [initseqBody, hu, Sub.done_andThen]⟩

/-- How INITSEQ ends after a replay that is done. -/
theorem replayed_closes (hp : t.cfg.rstPin ≠ t.cfg.csPin) (hh : t.seq.csHeld = true) :
    ∃ d v, 10 ≤ d ∧ v.now = t.now + d
      ∧ v.seq = { releasedSeq t d with ti := 0, inInitseq := false, seqDone := true }
      ∧ ((Sub.done t).andThen csDisable).andThen (fun w => .done (endInitseq w)) = .done v := by
  obtain ⟨d, u, hd, hu, hnow, hseq⟩ :=
    csDisable_releases (s := letOthersStep t) (by simpa using hp) (by simpa using hh)
  refine ⟨d, endInitseq (letOthersStep u), hd, ?_, ?_, by rw [Sub.done_andThen, hu, Sub.done_andThen]⟩
  · rw [endInitseq_now, letOthersStep_now, hnow, letOthersStep_now]
  · rw [endInitseq_seq, letOthersStep_seq, hseq]
    simp [releasedSeq]

/-- INITSEQ, begun in `s` and done in `v`: its replay went from `u` to `t` and appended `mid`; `d0` and
`d1` are the waits of the bracket. -/
structure Replayed (s u : State) (mid : List Event) (t : State) (d0 d1 : Nat) (v : State) : Prop where
  d0_ge : 10 ≤ d0
  d1_ge : 10 ≤ d1
  pins : s.cfg.rstPin ≠ s.cfg.csPin
  start_cfg : u.cfg = s.cfg
  start_now : u.now = s.now + d0
  start_seq : u.seq = { selectedSeq s d0 with inInitseq := true }
  sent : Sent u mid t
  shape : mid.map Event.shape = s.cfg.transcript.flatMap entryShapes
  owes : ∀ e ∈ s.cfg.transcript.getLast?, EntryOwes (entryReq s.cfg e) e mid t
  end_now : v.now = t.now + d1
  end_seq : v.seq = { releasedSeq t d1 with ti := 0, inInitseq := false, seqDone := true }

/-- INITSEQ is done only with two pins, chip-select not held, and a replay that is done. -/
theorem initseqBody_replayed (h : initseqBody s = .done v) :
    ∃ u mid t d0 d1, Replayed s u mid t d0 d1 v := by
  obtain ⟨hp, hh⟩ : s.cfg.rstPin ≠ s.cfg.csPin ∧ s.seq.csHeld = false := by
    obtain ⟨_, h1, -⟩ := Sub.andThen_eq_done.mp h
    obtain ⟨_, h2, -⟩ := Sub.andThen_eq_done.mp h1
    obtain ⟨_, h3, -⟩ := Sub.andThen_eq_done.mp h2
    exact csEnable_eq_done (s := beginInitseq s) h3
  obtain ⟨d0, u, hd0, hcfg, hnow, hseq, hbody⟩ := initseqBody_opens hp hh
  rw [hbody] at h
  obtain ⟨_, h1, -⟩ := Sub.andThen_eq_done.mp h
  obtain ⟨t, ht, -⟩ := Sub.andThen_eq_done.mp h1
  obtain ⟨mid, hsent, hshape, howes⟩ := replay_sent (by rw [hseq]; rfl) ht
  have htcfg : t.cfg = s.cfg := hsent.cfg.trans hcfg
  obtain ⟨d1, w, hd1, hwnow, hwseq, hw⟩ := replayed_closes (t := t) (htcfg ▸ hp)
    (hsent.csHeld.trans (by rw [hseq]; rfl))
  obtain rfl : w = v := by rw [ht, hw] at h; exact Sub.done.inj h
  exact ⟨u, mid, t, d0, d1, hd0, hd1, hp, hcfg, hnow, hseq, hsent, hshape, hcfg ▸ howes, hwnow, hwseq⟩

/-- A completed INITSEQ is one whose sub-steps are done. -/
theorem InitseqCompletes.replayed (h : InitseqCompletes s t) :
    ∃ u mid v d0 d1, Replayed s u mid v d0 d1 t := by
  obtain ⟨he, hf, hq⟩ := h
  rw [exec, execInitseq, finish_eq] at he
  cases hb : initseqBody s with
  | done v =>
    rw [hb] at he
    cases he
    obtain ⟨u, mid, w, d0, d1, hr⟩ := initseqBody_replayed hb
    exact ⟨u, mid, w, d0, d1, { hr with }⟩
  | raised v c n => rw [hb] at he; cases he; cases hf
  | refused q => rw [hb] at he; cases he; cases hq

variable {u : State} {mid : List Event} {d0 d1 : Nat}

/-- The log of a completed INITSEQ. -/
theorem Replayed.log (h : Replayed s u mid t d0 d1 v) :
    v.seq.log
      = s.seq.log
          ++ ([.edge s.now s.cfg.csPin false, .delay s.now 10 d0]
            ++ mid ++ [.edge t.now s.cfg.csPin true, .delay t.now 10 d1]) := by
  rw [h.end_seq]
  show t.seq.log ++ [.edge t.now t.cfg.csPin true, .delay t.now 10 d1] = _
  rw [h.sent.cfg, h.start_cfg, h.sent.log, h.start_seq]
  simp [selectedSeq]

theorem Replayed.mid_shape (h : Replayed s u mid t d0 d1 v) {e : Event} (he : e ∈ mid) :
    (∃ tag b, e.shape = .word tag b true) ∨ ∃ n, e.shape = .delay n := by
  have hm : e.shape ∈ s.cfg.transcript.flatMap entryShapes := h.shape ▸ List.mem_map_of_mem he
  obtain ⟨x, -, hx⟩ := List.mem_flatMap.mp hm
  exact mem_entryShapes hx

/-- The replay drives no line. -/
theorem Replayed.no_edge (h : Replayed s u mid t d0 d1 v) :
    ∀ e ∈ mid, ∀ n p l, e ≠ .edge n p l := by
  rintro _ he n p l rfl
  rcases h.mid_shape he with ⟨tag, b, hs⟩ | ⟨k, hs⟩ <;> cases hs

/-- The panel samples every word of the replay. -/
theorem Replayed.all_seen (h : Replayed s u mid t d0 d1 v) :
    ∀ n tag b seen, Event.word n tag b seen ∈ mid → seen = true := by
  intro n tag b seen he
  rcases h.mid_shape he with ⟨tag', b', hs⟩ | ⟨k, hs⟩ <;> cases hs
  rfl

theorem Replayed.words (h : Replayed s u mid t d0 d1 v) :
    wordsOf mid = transcriptWords s.cfg.transcript := by
  rw [wordsOf_eq, h.shape, transcriptShapes_words]

theorem Replayed.delay_le (h : Replayed s u mid t d0 d1 v) :
    s.now + d0 + transcriptDelay s.cfg.transcript ≤ t.now := by
  have := h.sent.run.minimum_le
  rwa [h.shape, transcriptShapes_minimum, h.start_now] at this

theorem Replayed.now_le (h : Replayed s u mid t d0 d1 v) :
    s.now + 2 * tCs + transcriptDelay s.cfg.transcript ≤ v.now := by
  have := h.delay_le
  have := h.d0_ge
  have := h.d1_ge
  rw [h.end_now]
  unfold tCs
  omega

end

/-- Settles O22: the replay of a completed INITSEQ drives no line. -/
theorem initseqPairsChipSelect : Obligations.InitseqPairsChipSelect := by
  intro s t h
  obtain ⟨u, mid, v, d0, d1, hr⟩ := h.replayed
  exact ⟨mid, v.now, d0, d1, hr.log, hr.no_edge⟩

/-- The shapes of all that a completed INITSEQ appends, which are the parameters' alone. -/
def initseqShapes (p : Params) : List EventShape :=
  [.edge p.csPin false, .delay 10] ++ p.transcript.flatMap entryShapes ++ [.edge p.csPin true, .delay 10]

theorem InitseqCompletes.appends {s t : State} (h : InitseqCompletes s t) :
    ∃ evs, t.seq.log = s.seq.log ++ evs ∧ evs.map Event.shape = initseqShapes s.cfg := by
  obtain ⟨u, mid, v, d0, d1, hr⟩ := h.replayed
  exact ⟨_, hr.log, by simp [hr.shape, initseqShapes, Event.shape]⟩

/-- Settles O23: both segments have the shapes `initseqShapes`, and the words are those of the shapes. -/
theorem initseqIsIdempotent : Obligations.InitseqIsIdempotent := by
  intro s t u h h'
  have hcfg : t.cfg = s.cfg := (exec_program_eq h.1).2.1
  obtain ⟨e1, hlog1, hshape1⟩ := h.appends
  obtain ⟨e2, hlog2, hshape2⟩ := h'.appends
  have hshape : e1.map Event.shape = e2.map Event.shape := by rw [hshape1, hshape2, hcfg]
  exact ⟨e1, e2, hlog1, hlog2, by rw [wordsOf_eq, wordsOf_eq, hshape], hshape⟩

/-! ### The least time of a well-formed transcript -/

/-- The post-delays, when each covers its role's minimum, are at least those minima, role by role. -/
theorem roleMins_le_transcriptDelay {es : List TranscriptEntry}
    (h : ∀ e ∈ es, roleMin e.role ≤ e.postDelay) :
    10 * (es.map TranscriptEntry.role).count .midDelay
      + 120 * (es.map TranscriptEntry.role).count .sleepOut
      + 10 * (es.map TranscriptEntry.role).count .powerCtl
      + 20 * (es.map TranscriptEntry.role).count .displayOn ≤ transcriptDelay es := by
  induction es with
  | nil => simp [transcriptDelay]
  | cons e es ih =>
    have hhead := h e List.mem_cons_self
    have htail := ih fun e' he' => h e' (List.mem_cons_of_mem _ he')
    unfold transcriptDelay at *
    cases hrole : e.role <;>
      simp [hrole, roleMin, tMid, tSlpout, tPwrctl, tDispon] at hhead ⊢ <;> omega

theorem count_role_pos {es : List TranscriptEntry} {r : Role} (h : ∃ e ∈ es, e.role = r) :
    0 < (es.map TranscriptEntry.role).count r := by
  obtain ⟨e, he, rfl⟩ := h
  exact List.count_pos_iff.mpr (List.mem_map_of_mem he)

/-- A well-formed transcript has an entry of each of three roles, and post-delays that cover the roles. -/
theorem transcriptOk_delay {p : Params} (h : transcriptOk p = true) :
    150 ≤ transcriptDelay p.transcript
      ∧ ((∃ e ∈ p.transcript, e.role = .midDelay) → 160 ≤ transcriptDelay p.transcript) := by
  simp only [transcriptOk, Bool.and_eq_true, List.any_eq_true, List.all_eq_true, beq_iff_eq,
    decide_eq_true_eq] at h
  obtain ⟨⟨⟨⟨⟨⟨-, hslp⟩, hpwr⟩, hdis⟩, hmin⟩, -⟩, -⟩ := h
  have := roleMins_le_transcriptDelay hmin
  have := count_role_pos hslp
  have := count_role_pos hpwr
  have := count_role_pos hdis
  refine ⟨by omega, fun hmid => ?_⟩
  have := count_role_pos hmid
  omega

/-- Settles O25: the two settle times, and the transcript's post-delays. -/
theorem initseqTakesItsMinimumTime : Obligations.InitseqTakesItsMinimumTime := by
  intro s t h
  obtain ⟨u, mid, v, d0, d1, hr⟩ := h.replayed
  have hle := hr.now_le
  refine ⟨hle, fun hok => ?_, fun hok hmid => ?_⟩ <;> unfold tCs at hle
  · have := (transcriptOk_delay hok).1
    omega
  · have := (transcriptOk_delay hok).2 hmid
    omega

/-! ### INITSEQ on a ready panel, and its first faults -/

/-- With the panel ready by the end of the first settle time, nothing owed beyond it, and post-delays that
cover what the commands owe, INITSEQ is done. -/
theorem initseqBody_completes {s : State} {r : Nat} (hp : s.cfg.rstPin ≠ s.cfg.csPin)
    (hh : s.seq.csHeld = false) (hr : s.seq.panelReadyAt = some r) (hready : r ≤ s.now + 10)
    (hquiet : s.seq.quietUntil ≤ s.now + 10)
    (hcover : ∀ e ∈ s.cfg.transcript, entryReq s.cfg e ≤ e.postDelay) :
    ∃ v, initseqBody s = .done v := by
  obtain ⟨d, u, hd, hcfg, hnow, hseq, hbody⟩ := initseqBody_opens hp hh
  have htalk : Talking u :=
    { selected := by rw [hseq]; rfl
      ready := (panelReady_iff u).mpr ⟨r, by rw [hseq]; exact hr, by omega⟩
      settled := by rw [hseq, hnow]; exact Nat.add_le_add_left hd _ }
  have hquiet' : u.seq.quietUntil ≤ u.now := by
    rw [hseq, hnow]
    exact hquiet.trans (Nat.add_le_add_left hd _)
  obtain ⟨t, ht⟩ := replay_completes (k := 0) htalk hquiet' (hcfg ▸ hcover)
  obtain ⟨mid, hsent, -⟩ := replay_sent htalk.selected ht
  have htcfg : t.cfg = s.cfg := hsent.cfg.trans hcfg
  obtain ⟨_, v, -, -, -, hv⟩ := replayed_closes (t := t) (htcfg ▸ hp)
    (hsent.csHeld.trans (by rw [hseq]; rfl))
  exact ⟨v, by rw [hbody, ← hcfg, ht, hv]⟩

/-- Settles O21: INITSEQ is done (`initseqBody_completes`), so it is one that `Replayed` describes. -/
theorem initseqReplaysTheTranscript : Obligations.InitseqReplaysTheTranscript := by
  intro s r hp hh hr hready hquiet hcover
  obtain ⟨v, hv⟩ := initseqBody_completes hp hh hr hready hquiet hcover
  obtain ⟨u, mid, t, d0, d1, h⟩ := initseqBody_replayed hv
  have hside := initseqBody_besideOthers s
  rw [hv] at hside
  obtain ⟨w, hw, hnext⟩ := BesideOthers.finish_done hside .initseq
  rw [← hv] at hnext
  refine ⟨_, mid, t.now, d0, d1, hnext, ⟨w, hw, rfl⟩, rfl, h.log, h.shape,
    h.start_now ▸ h.sent.run, h.words, h.all_seen, h.no_edge, h.d0_ge, h.d1_ge, h.end_now, h.delay_le,
    ?_, fun es e hes => ?_, ?_⟩
  · rw [h.end_seq]; rfl
  · obtain ⟨hreq, x, hquiet', hnone, hwait⟩ := h.owes e (by simp [hes])
    refine ⟨by rw [h.end_seq]; exact hreq, x, by rw [h.end_seq]; exact hquiet', hnone, fun hpos => ?_⟩
    obtain ⟨m, d, hm, -, hd⟩ := hwait hpos
    exact ⟨m, d, hm, hd⟩
  · rw [h.end_seq]
    refine ⟨rfl, rfl, rfl, rfl, rfl, h.sent.rstLevel.trans ?_, h.sent.rstLowAt.trans ?_,
      h.sent.panelReadyAt.trans ?_⟩ <;> rw [h.start_seq] <;> rfl

/-- With no panel reset the first word of the replay is not sent. -/
theorem replay_not_ready {u : State} {es : List TranscriptEntry} (hes : es ≠ [])
    (hcs : u.seq.csLevel = .lo) (hr : u.seq.panelReadyAt = none) (k : Nat) :
    replay k es u = .raised (setTi k u) .panelNotReady u.now := by
  cases es with
  | nil => exact absurd rfl hes
  | cons e es =>
    have hready : panelReady (setTi k u) = false := by simp [panelReady, hr]
    rw [replay, sendEntry, xmitWord_lo (s := setTi k u) hcs, checkAndSend_not_ready hready]
    rfl

/-- Settles O24: CSEN's pairing check, and the first word's check of the panel. -/
theorem initseqFaultsPrecisely : Obligations.InitseqFaultsPrecisely := by
  refine fun s => ⟨fun hh => ?_, fun hp hes hh hr => ?_⟩
  · have hopen : csEnable (beginInitseq s) = .raised (beginInitseq s) .csPairing 1 := if_pos hh
    rw [exec, execInitseq, initseqBody, hopen]
    rfl
  · obtain ⟨d, u, hd, hcfg, hnow, hseq, hbody⟩ := initseqBody_opens hp hh
    rw [replay_not_ready hes (by rw [hseq]; rfl) (by rw [hseq]; exact hr), Sub.raised_andThen,
      Sub.raised_andThen] at hbody
    have hside := initseqBody_besideOthers s
    rw [hbody] at hside
    obtain ⟨w, hw, hnext⟩ := BesideOthers.finish_raised hside .initseq .panelNotReady u.now
    refine ⟨d, w, hd, hw, ?_⟩
    rw [exec, execInitseq, hbody, hnext, setTi_now, setTi_seq, hnow, hseq]
    rfl

end Sys2Proof.Machine
end

section
/-! PROOFS. Family 42_can_queue: CANCFG, CANRECV and CANALRT, the events of the CAN bus, and what they leave
of the configuration (O27 to O32, O59). -/

namespace Sys2Proof.Machine

/-! ### Alerts -/

/-- The bit number of an alert in CAN_ALERT_EN and CAN_ALERT_STATUS (10_state.md R47). -/
def Alert.bit : Alert → Nat
  | .queueFull => 0
  | .busError => 1
  | .errorPassive => 2

theorem Alert.mask_eq_twoPow (a : Alert) : a.mask = BitVec.twoPow 3 a.bit := by
  cases a <;> rfl

/-- R279: an alert that is not enabled changes nothing. -/
theorem raiseAlert_eq (a : Alert) (c : CanState) :
    raiseAlert a c
      = { c with
          alertStatus :=
            if c.alertEn.getLsbD a.bit then c.alertStatus ||| a.mask else c.alertStatus } := by
  have hand : c.alertEn &&& a.mask = if c.alertEn.getLsbD a.bit then a.mask else 0#3 := by
    rw [a.mask_eq_twoPow, BitVec.and_twoPow]
  rw [raiseAlert, hand]
  split
  · rfl
  · rw [BitVec.or_zero]

/-! ### Events of the CAN bus -/

/-- An event of the CAN bus can come next exactly while CAN runs (R185, R188, R189). -/
theorem canEvent_mem_enabledTurns {s : State} {a : AgentStep} (ha : a ≠ .scan) :
    Turn.other a ∈ enabledTurns s ↔ s.can.phase = .running := by
  rw [other_mem_enabledTurns, mem_otherSteps, canEnabled_iff]
  simp [ha]

/-- CAN_RX writes CANQ alone, by what CANQ holds. -/
theorem canStep_rx (f : Frame) (s : State) :
    canStep (.rx f) s = s.withCan (canReceive s.cfg f s.can) := rfl

section
variable {p : Params} {c : CanState} {f : Frame}

theorem canReceive_refused (ha : accepts p c.filter f = false) : canReceive p f c = c := by
  rw [canReceive, if_neg (by simp [ha])]

theorem canReceive_queued (ha : accepts p c.filter f = true)
    (hroom : c.rxq.length < c.rxqDepth.toNat) :
    canReceive p f c = { c with rxq := c.rxq ++ [f] } := by
  rw [canReceive, if_pos ha, if_pos hroom]

theorem canReceive_dropped (ha : accepts p c.filter f = true)
    (hfull : c.rxqDepth.toNat ≤ c.rxq.length) :
    canReceive p f c = raiseAlert .queueFull { c with dropped := c.dropped + 1 } := by
  rw [canReceive, if_pos ha, if_neg (Nat.not_lt.mpr hfull)]

end

/-- Settles O30: the three outcomes of `canReceive`, QUEUE_FULL by `raiseAlert_eq`. -/
theorem canRxQueuesOrDrops : Obligations.CanRxQueuesOrDrops := by
  refine fun s f => ⟨canEvent_mem_enabledTurns (by decide), fun hp ht => step_eq_runTurn hp ht,
    fun ha => ?_, fun ha hroom => ?_, fun ha hfull => ?_⟩
  · rw [canStep_rx, canReceive_refused ha]; rfl
  · rw [canStep_rx, canReceive_queued ha hroom]; rfl
  · rw [canStep_rx, canReceive_dropped ha hfull, raiseAlert_eq]; rfl

/-- Settles O32: the two events raise their alert, by `raiseAlert_eq`. -/
theorem busEventsOnlyRaiseTheirAlert : Obligations.BusEventsOnlyRaiseTheirAlert := by
  refine fun s => ⟨canEvent_mem_enabledTurns (by decide), canEvent_mem_enabledTurns (by decide),
    fun hp ht => step_eq_runTurn hp ht, fun hp ht => step_eq_runTurn hp ht, ?_, ?_⟩
  · rw [canStep, raiseAlert_eq]; rfl
  · rw [canStep, raiseAlert_eq]; rfl

/-! ### Many frames -/

/-- CANQ after accepted frames `fs` have arrived with no CANRECV between them: the queue is filled up to its
depth, and what does not fit is counted and reported. -/
def CanState.afterArrivals (c : CanState) (fs : List Frame) : CanState :=
  { c with
    rxq := (c.rxq ++ fs).take c.rxqDepth.toNat
    dropped := c.dropped + (c.rxq.length + fs.length - c.rxqDepth.toNat)
    alertStatus :=
      if c.rxq.length + fs.length ≤ c.rxqDepth.toNat then c.alertStatus
      else (raiseAlert .queueFull c).alertStatus }

section
variable {c : CanState}

theorem CanState.afterArrivals_nil (hb : c.rxq.length ≤ c.rxqDepth.toNat) : c.afterArrivals [] = c := by
  simp [afterArrivals, hb, List.take_of_length_le]

/-- A frame for which there is room joins the queue. -/
theorem CanState.afterArrivals_room (c : CanState) (f : Frame) (fs : List Frame) :
    CanState.afterArrivals { c with rxq := c.rxq ++ [f] } fs = c.afterArrivals (f :: fs) := by
  simp [afterArrivals, raiseAlert, Nat.add_right_comm, Nat.add_assoc]

/-- Once the queue is full, every frame is dropped; the alert that the first of them raises stays. -/
theorem CanState.afterArrivals_full (hfull : c.rxq.length = c.rxqDepth.toNat) (f : Frame)
    (fs : List Frame) :
    CanState.afterArrivals (raiseAlert .queueFull { c with dropped := c.dropped + 1 }) fs
      = c.afterArrivals (f :: fs) := by
  have hcount : c.dropped + 1 + (c.rxq.length + fs.length - c.rxq.length)
      = c.dropped + (c.rxq.length + (fs.length + 1) - c.rxq.length) := by omega
  simpa [afterArrivals, raiseAlert, ← hfull, BitVec.or_assoc] using hcount

end

/-- Accepted frames received one after the other, by a queue within its depth. -/
theorem foldl_canReceive (p : Params) (fs : List Frame) :
    ∀ c : CanState, c.rxq.length ≤ c.rxqDepth.toNat → (∀ f ∈ fs, accepts p c.filter f = true) →
      fs.foldl (fun c f => canReceive p f c) c = c.afterArrivals fs := by
  induction fs with
  | nil => intro c hb _; exact (CanState.afterArrivals_nil hb).symm
  | cons f fs ih =>
    intro c hb hacc
    obtain ⟨hf, hfs⟩ := List.forall_mem_cons.mp hacc
    rw [List.foldl_cons]
    rcases Nat.lt_or_eq_of_le hb with hroom | hfull
    · have hb' : (c.rxq ++ [f]).length ≤ c.rxqDepth.toNat := by rw [List.length_append]; exact hroom
      rw [canReceive_queued hf hroom, ih { c with rxq := c.rxq ++ [f] } hb' hfs, c.afterArrivals_room]
    · rw [canReceive_dropped hf hfull.ge,
        ih (raiseAlert .queueFull { c with dropped := c.dropped + 1 }) hb hfs,
        CanState.afterArrivals_full hfull]

/-- Steps of CAN_RX, one after the other, are receptions by CANQ. -/
theorem foldl_canStep_rx (s : State) (fs : List Frame) :
    fs.foldl (fun u f => canStep (.rx f) u) s
      = s.withCan (fs.foldl (fun c f => canReceive s.cfg f c) s.can) :=
  List.foldl_hom s.withCan (g₁ := fun c f => canReceive s.cfg f c) fun _ _ => rfl

/-- Settles O31: `foldl_canReceive` at depth 64, from an empty queue. -/
theorem queueOfDepth64DropsNothingBelow65 : Obligations.QueueOfDepth64DropsNothingBelow65 := by
  intro s fs hdepth hempty hnone hacc
  have hd : s.can.rxqDepth.toNat = 64 := by rw [hdepth]; rfl
  have hrun : (fs.foldl (fun u f => canStep (.rx f) u) s).can = s.can.afterArrivals fs := by
    rw [foldl_canStep_rx, foldl_canReceive s.cfg fs s.can (by simp [hempty]) hacc]
    rfl
  rw [hrun]
  refine ⟨?_, ?_, fun hfit => ?_, fun hmore hen => ?_⟩
  · simp [CanState.afterArrivals, hempty, hd]
  · simp [CanState.afterArrivals, hempty, hnone, hd]
  · simp [CanState.afterArrivals, hempty, hd, hfit]
  · rw [BitVec.getLsbD_eq_getElem (by decide)] at hen
    simp [CanState.afterArrivals, hempty, hd, Nat.not_le.mpr hmore, raiseAlert, hen, Alert.mask]

/-! ### CANCFG -/

theorem drawBool_iff (s : State) : drawBool s = true ↔ drawVal s % 2 = 1 := by simp [drawBool]

/-- CANQ with the driver of `c` installed and in `phase`, with `dropped` frames lost before. -/
def CanState.driver (c : BusConfig) (phase : CanPhase) (dropped : Nat) : CanState :=
  { phase := phase, tried := true, txPin := c.txPin, rxPin := c.rxPin, mode := c.mode
    rxqDepth := BitVec.ofNat 16 c.rxqDepth, txqDepth := BitVec.ofNat 16 c.txqDepth
    timing := c.timing, filter := c.filter, alertEn := c.alerts, alertStatus := 0#3
    rxq := [], txq := [], dropped := dropped }

section
variable {s : State} {c : BusConfig}

/-- R184: CANCFG runs once. -/
theorem exec_cancfg_again (ht : s.can.tried = true) : exec (.cancfg c) s = .next (refuse .canReconfig s) := by
  rw [exec, execCancfg, if_pos ht]; rfl

/-- R181: past its two checks CANCFG completes. -/
theorem exec_cancfg_first (ht : s.can.tried = false) (hd : c.rxqDepth ≠ 0) :
    exec (.cancfg c) s = .next (advancePc 5 (installOutcome c (markTried s))) := by
  rw [exec, execCancfg, if_neg (by simp [ht]), if_neg hd]; rfl

theorem installCan_markTried (c : BusConfig) (s : State) :
    installCan c (afterDraw (markTried s))
      = (afterDraw s).withCan (CanState.driver c .installed s.can.dropped) := rfl

theorem startCan_driver (c : BusConfig) (s : State) (n : Nat) :
    startCan (afterDraw (s.withCan (CanState.driver c .installed n)))
      = (afterDraw s).withCan (CanState.driver c .running n) := rfl

theorem installOutcome_failed (hi : drawVal s % 2 ≠ 1) :
    installOutcome c s = reportFailure .installFailed (afterDraw s) := by
  rw [installOutcome, if_neg (mt (drawBool_iff s).mp hi)]

theorem installOutcome_installed (hi : drawVal s % 2 = 1) :
    installOutcome c s = startOutcome (installCan c (afterDraw s)) := by
  rw [installOutcome, if_pos ((drawBool_iff s).mpr hi)]

theorem startOutcome_failed (hs : drawVal s % 2 ≠ 1) :
    startOutcome s = reportFailure .startFailed (afterDraw s) := by
  rw [startOutcome, if_neg (mt (drawBool_iff s).mp hs)]

theorem startOutcome_started (hs : drawVal s % 2 = 1) :
    startOutcome s = setStatus .ok (startCan (afterDraw s)) := by
  rw [startOutcome, if_pos ((drawBool_iff s).mpr hs)]

end

/-- Settles O27: one outcome of the install draw, then of the start draw, per clause. Neither draw depends on
what CANCFG has written by then. -/
theorem cancfgInstallsAndStarts : Obligations.CancfgInstallsAndStarts := by
  intro s c ht hd
  have hstart : ∀ d, drawVal ((afterDraw s).withCan d) = drawVal (afterDraw s) := fun _ => rfl
  rw [exec_cancfg_first ht hd]
  refine ⟨fun hi => ?_, fun hi hs => ?_, fun hi hs => ?_⟩
  · rw [installOutcome_failed (s := markTried s) hi]
    rfl
  · rw [installOutcome_installed (s := markTried s) hi, installCan_markTried,
      startOutcome_failed (by rwa [hstart])]
    rfl
  · rw [installOutcome_installed (s := markTried s) hi, installCan_markTried,
      startOutcome_started (by rwa [hstart]), startCan_driver]
    rfl

/-! ### CANRECV and CANALRT -/

section
variable {s : State}

/-- R190: with no driver, or with nothing queued, CANRECV answers EMPTY. -/
theorem receive_empty (h : s.can.phase = .uninstalled ∨ s.can.rxq = []) : receive s = recvEmpty s := by
  unfold receive
  split
  · rfl
  · rfl
  · rfl
  · rename_i hp hq; simp [hp, hq] at h
  · rename_i hp hq; simp [hp, hq] at h

/-- R190: with a driver CANRECV takes the oldest frame. -/
theorem receive_frame {f : Frame} {fs : List Frame} (hp : s.can.phase ≠ .uninstalled)
    (hq : s.can.rxq = f :: fs) : receive s = recvFrame f fs s := by
  unfold receive
  rw [hq]
  cases h : s.can.phase with
  | uninstalled => exact absurd h hp
  | installed => rfl
  | running => rfl

theorem exec_canrecv (s : State) : exec .canrecv s = .next (advancePc 1 (receive s)) := rfl
theorem exec_canalrt (s : State) : exec .canalrt s = .next (advancePc 1 (takeAlerts s)) := rfl

end

/-- Settles O28: the two outcomes of CANRECV. -/
theorem canrecvTakesTheOldest : Obligations.CanrecvTakesTheOldest := by
  refine fun s => ⟨fun f fs hp hq => ?_, fun h => ?_⟩
  · rw [exec_canrecv, receive_frame hp hq]; rfl
  · rw [exec_canrecv, receive_empty h]; rfl

/-- Settles O29: CANALRT is `takeAlerts`, and with no alert pending can_irq is 0. -/
theorem canalrtReadsAndClears : Obligations.CanalrtReadsAndClears :=
  fun s => ⟨_, exec_canalrt s, rfl, rfl⟩

/-! ### The configuration -/

/-- `d` differs from `c` at most in rxq, dropped and CAN_ALERT_STATUS: can_state, can_tried and every
CAN_* configuration register are the same. -/
def CanState.SameConfig (c d : CanState) : Prop :=
  d = { c with rxq := d.rxq, dropped := d.dropped, alertStatus := d.alertStatus }

section
variable {s t : State}

theorem OthersRan.sameConfig (h : OthersRan s t) : s.can.SameConfig t.can :=
  congrArg State.can h.only

theorem receive_sameConfig (s : State) : s.can.SameConfig (receive s).can := by
  unfold receive
  split <;> rfl

/-- R184: CANCFG alone writes the configuration, and it runs once. -/
theorem exec_sameConfig {i : Instr} (ht : s.can.tried = true) (h : exec i s = .next t) :
    s.can.SameConfig t.can := by
  rcases opcode_unit i.opcode with hi | hi | hi | hi
  · exact congrArg State.can (exec_seq_changes hi h)
  · cases i with
    | cancfg c => rw [exec_cancfg_again ht] at h; cases h; rfl
    | canrecv => cases h; exact receive_sameConfig s
    | canalrt => cases h; rfl
    | _ => simp [Instr.opcode] at hi
  · exact congrArg State.can (exec_rgb_changes hi h)
  · exact congrArg State.can (exec_blit_changes hi h)

theorem step_sameConfig (ht : s.can.tried = true) (h : step s = .next t) :
    s.can.SameConfig t.can := by
  obtain ⟨-, ⟨i, -, -, -, he⟩ | ⟨c, n, -, -, -, rfl⟩ | ⟨a, ha, rfl⟩⟩ := step_cases h
  · have hu : (atTurn s).can = s.can := atTurn_can s
    exact hu ▸ exec_sameConfig (hu.symm ▸ ht) he
  · rw [raiseFault_can, atTurn_can]; rfl
  · exact (agentStep_atTurn_ran ha).sameConfig

end

/-- Settles O59: no step but CANCFG's writes the configuration, and a second CANCFG is refused. -/
theorem canConfigurationIsImmutable : Obligations.CanConfigurationIsImmutable :=
  fun _ ht => ⟨fun _ h => step_sameConfig ht h, fun _ => exec_cancfg_again ht⟩

end Sys2Proof.Machine
end

section
/-! PROOFS. Family 43_rgb_timing: DPCFG, BLSET, and what a frame shows (O34 to O36). -/

namespace Sys2Proof.Machine

/-! ### SCAN's turn -/

/-- A step of SCAN can come next exactly while a frame is open or the data plane runs (R283). -/
theorem scan_mem_enabledTurns {s : State} :
    Turn.other .scan ∈ enabledTurns s ↔ s.rgb.scanOpen = true ∨ s.rgb.phase = .running := by
  rw [other_mem_enabledTurns, mem_otherSteps, scanEnabled_iff, or_comm (a := s.rgb.scanOpen = true)]
  simp

theorem scanStep_closed {s : State} (h : s.rgb.scanOpen = false) : scanStep s = frameBegin s :=
  if_neg (Bool.eq_false_iff.mp h)

theorem scanStep_open {s : State} (h : s.rgb.scanOpen = true) : scanStep s = frameEnd s := if_pos h

/-! ### What is seen of a byte -/

/-- With nothing written since the frame began, a byte has shown what it held then. -/
theorem seenAt_begun (m : Memory) (i : Nat) : seenAt ⟨m, []⟩ i = [m.read i] := rfl

theorem seenAt_ne_nil (ss : ScanSeen) (i : Nat) : seenAt ss i ≠ [] := List.cons_ne_nil _ _

/-- R258: a write adds its byte at its index, if the buffer written is the one an open frame shows. -/
theorem mem_seenAt_fbWrite {r : RgbState} {k i j : Nat} {b : Byte} {v : Option Byte} :
    v ∈ seenAt (fbWrite k i b r).scanSeen j
      ↔ v ∈ seenAt r.scanSeen j ∨ (r.scanOpen = true ∧ r.scanSel = k ∧ j = i ∧ v = some b) := by
  by_cases hshown : r.scanOpen = true ∧ r.scanSel = k
  · obtain ⟨hopen, hsel⟩ := hshown
    have hss : (fbWrite k i b r).scanSeen = { r.scanSeen with added := r.scanSeen.added ++ [(i, b)] } := by
      simp [fbWrite, hopen, hsel]
    rw [hss, seenAt_added, List.mem_append]
    by_cases hij : i = j <;> simp [hopen, hsel, hij, eq_comm (a := j)]
  · have hss : (fbWrite k i b r).scanSeen = r.scanSeen := if_neg (by simpa using hshown)
    rw [hss, ← and_assoc]
    simp [hshown]

/-! ### The bytes of a frame -/

/-- R219, R220: where `vs` has been seen of a byte, a frame may show `v`. -/
def MayShow (vs : List (Option Byte)) (v : Byte) : Prop := some v ∈ vs ∨ none ∈ vs

/-- The byte drawn is a member of what was seen, or any byte where that member is "unwritten". -/
theorem scanByte_mayShow (i : Nat) (s : State) : MayShow (seenAt s.rgb.scanSeen i) (scanByte i s).1 := by
  have hlt : drawVal s % (seenAt s.rgb.scanSeen i).length < (seenAt s.rgb.scanSeen i).length :=
    Nat.mod_lt _ (List.length_pos_iff.mpr (seenAt_ne_nil _ i))
  have hmem := List.getElem_mem hlt
  rw [← List.getD_eq_getElem _ none hlt] at hmem
  unfold scanByte
  simp only
  split
  · rename_i b hb
    exact .inl (hb ▸ hmem)
  · rename_i hb
    exact .inr (hb ▸ hmem)

theorem scanByte_rgb (i : Nat) (s : State) : (scanByte i s).2.rgb = s.rgb := by rw [scanByte_state]

/-- Drawing a byte changes nothing of what is seen, so each byte is drawn from the same sets. -/
theorem scanBytes_mayShow (is : List Nat) (s : State) :
    List.Forall₂ (fun i v => MayShow (seenAt s.rgb.scanSeen i) v) is (scanBytes is s).1 := by
  induction is generalizing s with
  | nil => exact .nil
  | cons i is ih =>
    have htail := ih (scanByte i s).2
    rw [scanByte_rgb] at htail
    exact .cons (scanByte_mayShow i s) htail

/-- R219: the frame that FRAME_END emits in `s`. -/
def emittedFrame (s : State) : List Byte :=
  (scanBytes (List.range (frameBytes s.cfg.panelW s.cfg.panelH s.cfg.bytesPP)) s).1

theorem frameEnd_rgb (s : State) :
    (frameEnd s).rgb = { s.rgb with frames := s.rgb.frames ++ [emittedFrame s], scanOpen := false } := rfl

theorem emittedFrame_length (s : State) :
    (emittedFrame s).length = frameBytes s.cfg.panelW s.cfg.panelH s.cfg.bytesPP := by
  rw [emittedFrame, scanBytes_length, List.length_range]

theorem emittedFrame_mayShow {s : State} {i : Nat} {v : Byte} (h : (emittedFrame s)[i]? = some v) :
    MayShow (seenAt s.rgb.scanSeen i) v := by
  obtain ⟨hi, rfl⟩ := List.getElem?_eq_some_iff.mp h
  have hall := scanBytes_mayShow (List.range (frameBytes s.cfg.panelW s.cfg.panelH s.cfg.bytesPP)) s
  have hbyte := hall.get (hall.length_eq ▸ hi) hi
  rwa [List.get_eq_getElem, List.getElem_range] at hbyte

/-- Settles O36: FRAME_BEGIN by `frameBegin_spec`, the writes by `mem_seenAt_fbWrite`, the frame's bytes by
`emittedFrame_mayShow`. -/
theorem frameShowsValuesHeldWhileOpen : Obligations.FrameShowsValuesHeldWhileOpen := by
  refine fun s => ⟨scan_mem_enabledTurns, fun hp ht => step_eq_runTurn hp ht, scanStep_closed,
    scanStep_open, ?_, fun k i j b v => mem_seenAt_fbWrite, emittedFrame s, frameEnd_rgb s, ?_,
    fun i v => emittedFrame_mayShow⟩
  · obtain ⟨sel, n, sc, hone, hlt, hbegin⟩ := frameBegin_spec s
    rw [hbegin]
    refine ⟨sel, fun h => hone (by rw [h]; rfl), fun h => hlt ?_, rfl, seenAt_begun _⟩
    exact Nat.pos_of_ne_zero (mt (BitVec.eq_of_toNat_eq ·) h)
  · rw [emittedFrame_length, frameBytes, Nat.mul_comm s.cfg.panelW]

/-! ### DPCFG -/

/-- R214, condition by condition. -/
theorem geomOk_iff {p : Params} {c : PlaneConfig} :
    geomOk p c = true
      ↔ c.hRes = p.panelW ∧ c.vRes = p.panelH ∧ c.bpp = p.bpp ∧ 1 ≤ c.fbCount ∧ 1 ≤ c.hsyncPw
        ∧ 1 ≤ c.vsyncPw ∧ 1 ≤ c.pclkHz ∧ 1 ≤ c.dataWidth := by
  simp [geomOk, and_assoc]

section
variable {s : State} {c : PlaneConfig}

/-- R211: past its three checks DPCFG completes. -/
theorem exec_dpcfg_first (hp : s.rgb.phase = .unconfigured) (hg : geomOk s.cfg c = true)
    (hd : s.seq.seqDone = true) : exec (.dpcfg c) s = .next (advancePc 9 (planeOutcome c s)) := by
  rw [exec, execDpcfg, if_neg (by simp [hp]), if_neg (by simp [hg]), if_neg (by simp [hd])]; rfl

theorem planeOutcome_created (h : drawVal s % 2 = 1) :
    planeOutcome c s = setStatus .ok (letOthersStep (startPlane c (letOthersStep (afterDraw s)))) :=
  if_pos ((drawBool_iff s).mpr h)

theorem planeOutcome_failed (h : drawVal s % 2 ≠ 1) :
    planeOutcome c s
      = reportFailure .handleCreationFailed (letOthersStep (failPlane (letOthersStep (afterDraw s)))) :=
  if_neg (mt (drawBool_iff s).mp h)

end

theorem ofBool_eq_ite (b : Bool) : BitVec.ofBool b = if b then 1#1 else 0#1 := by cases b <;> rfl

/-- Settles O34: one outcome of the handle draw per clause, the other agents stepping before and after the
registers are written. -/
theorem dpcfgStartsThePlane : Obligations.DpcfgStartsThePlane := by
  intro s c hp hg hd
  rw [exec_dpcfg_first hp (geomOk_iff.mpr hg) hd, ← ofBool_eq_ite]
  have hran := afterDraw_others_ran s
  refine ⟨fun h => ⟨_, letOthersStep (startPlane c (letOthersStep (afterDraw s))), hran, ?_, ?_⟩,
    fun h => ⟨_, _, hran, letOthersStep_ran (failPlane (letOthersStep (afterDraw s))), ?_⟩⟩
  · rw [← hran.cfg_eq]
    exact letOthersStep_ran _
  · rw [planeOutcome_created h]
    simp [advancePc, setStatus, Status.code]
  · rw [planeOutcome_failed h]
    simp [advancePc, reportFailure, Status.code]

/-! ### BLSET -/

/-- R224: the duty is the floor of the capped request times BL_FULL over BL_MAX. -/
theorem backlightDuty_floor {p : Params} (req : Nat) (h : p.blMax ≠ 0) :
    backlightDuty p req * p.blMax ≤ min req p.blMax * p.blFull
      ∧ min req p.blMax * p.blFull < (backlightDuty p req + 1) * p.blMax :=
  ⟨Nat.div_mul_le_self _ _, (Nat.div_lt_iff_lt_mul (Nat.pos_of_ne_zero h)).mp (Nat.lt_succ_self _)⟩

theorem backlightDuty_full {p : Params} {req : Nat} (h : p.blMax ≠ 0) (hr : p.blMax ≤ req) :
    backlightDuty p req = p.blFull := by
  rw [backlightDuty, Nat.min_eq_right hr, Nat.mul_div_cancel_left _ (Nat.pos_of_ne_zero h)]

theorem backlightDuty_zero (p : Params) : backlightDuty p 0 = 0 := by simp [backlightDuty]

/-- With the data plane running BLSET completes. -/
theorem exec_blset_running {s : State} (req : Nat) (hb : s.cfg.blMax ≠ 0) (hp : s.rgb.phase = .running) :
    exec (.blset req) s = .next (advancePc 1 (setBacklight (backlightDuty s.cfg req) s)) := by
  rw [exec, execBlset, if_neg hb, if_neg (by simp [hp])]; rfl

/-- Settles O35: the duty is `backlightDuty`, a floor division. -/
theorem blsetWritesTheCappedDuty : Obligations.BlsetWritesTheCappedDuty := by
  intro s req hb hp
  obtain ⟨hle, hlt⟩ := backlightDuty_floor req hb
  exact ⟨backlightDuty s.cfg req, exec_blset_running req hb hp, hle, hlt, backlightDuty_full hb,
    fun h => h ▸ backlightDuty_zero s.cfg⟩

end Sys2Proof.Machine
end

section
/-! PROOFS. Family 44_blit: the draw buffers and the flush front end, which bytes a blit reads and writes, and
what FLUSH adds to a blit (O52, O38 to O44).

The plan of a blit runs through source addresses that rise, and through frame-buffer indexes that rise too
where a row holds the window (`transferPlan_pairwise`, `rasterOffset_lt`). So the first byte of the plan that
was never written is the lowest one, and no two writes of the copy meet. -/

namespace Sys2Proof.Machine

/-! ### The record of the draw buffers and of the flush front end -/

section
variable {s t : State}

theorem BlitInv.of_blit_eq (h : BlitInv s) (hc : t.cfg = s.cfg) (hb : t.blit = s.blit) : BlitInv t := by
  constructor <;> rw [hb] <;> try rw [hc]
  exacts [h.allocated_legal, h.aborted_iff_failed, h.registered_means_allocated, h.registered_canvas,
    h.counted_once, h.log_counts, h.completions_registered]

/-- R243, condition by condition. -/
theorem legalPair_iff {p : Params} {size a1 a2 : Nat} :
    legalPair p size a1 a2 = true
      ↔ a1 ≠ 0 ∧ a2 ≠ 0 ∧ a1 % 32 = 0 ∧ a2 % 32 = 0 ∧ a1 + size ≤ 2 ^ 32 ∧ a2 + size ≤ 2 ^ 32
        ∧ (a1 + size ≤ a2 ∨ a2 + size ≤ a1)
        ∧ dmaCapable p a1 size = true ∧ dmaCapable p a2 size = true := by
  simp only [legalPair, Bool.and_eq_true, Bool.or_eq_true, decide_eq_true_eq, and_assoc]
  rfl

/-- The addresses of two legal non-empty buffers are what BUF1 and BUF2 hold. -/
theorem legalPair_stored {p : Params} {size a1 a2 : Nat} (h : legalPair p size a1 a2 = true)
    (hs : size ≠ 0) : (BitVec.ofNat 32 a1).toNat = a1 ∧ (BitVec.ofNat 32 a2).toNat = a2 := by
  obtain ⟨-, -, -, -, h1, h2, -⟩ := legalPair_iff.mp h
  simp only [BitVec.toNat_ofNat]
  omega

section
variable {vw vh size : Nat}

theorem allocOutcome_legal (h : legalPair s.cfg size (drawVal s) (drawVal (afterDraw s)) = true) :
    allocOutcome vw vh size s
      = allocOk (drawVal s) (drawVal (afterDraw s)) size vw vh (afterDraw (afterDraw s)) :=
  if_pos h

theorem allocOutcome_null (h : ¬ legalPair s.cfg size (drawVal s) (drawVal (afterDraw s)) = true) :
    allocOutcome vw vh size s = allocFailed (afterDraw (afterDraw s)) :=
  if_neg h

/-- Nothing is registered or aborted before an allocation. -/
theorem BlitInv.unallocated (h : BlitInv s) (ha : s.blit.allocState = .none) :
    s.blit.flushRegistered = false ∧ s.blit.gfxAborted = false := by
  refine ⟨Bool.eq_false_iff.mpr fun hr => ?_, Bool.eq_false_iff.mpr fun hg => ?_⟩
  · have := h.registered_means_allocated hr
    simp [ha] at this
  · have := h.aborted_iff_failed.mp hg
    simp [ha] at this

/-- R241 to R244: the first allocation gives a legal non-empty pair or aborts the graphics subsystem. -/
theorem BlitInv.allocOutcome (h : BlitInv s) (ha : s.blit.allocState = .none) (hs : size ≠ 0) :
    BlitInv (allocOutcome vw vh size s) := by
  obtain ⟨hreg, hgfx⟩ := h.unallocated ha
  have hreg' : ¬ s.blit.flushRegistered = true := by simp [hreg]
  by_cases hl : legalPair s.cfg size (drawVal s) (drawVal (afterDraw s)) = true
  · obtain ⟨h1, h2⟩ := legalPair_stored hl hs
    rw [allocOutcome_legal hl]
    exact { h with
      allocated_legal := fun _ => by simpa [h1, h2] using ⟨hl, Nat.pos_of_ne_zero hs⟩
      aborted_iff_failed := by simp [hgfx]
      registered_means_allocated := fun hr => absurd hr hreg'
      registered_canvas := fun hr => absurd hr hreg' }
  · rw [allocOutcome_null hl]
    exact { h with
      allocated_legal := nofun
      aborted_iff_failed := ⟨fun _ => rfl, fun _ => rfl⟩
      registered_means_allocated := fun hr => absurd hr hreg' }

end

/-- R246: the registered canvas is the allocated one, and is counted. -/
theorem BlitInv.registerFlush (h : BlitInv s) (hr : s.blit.flushRegistered = false)
    (hg : s.blit.gfxAborted = false) (ha : s.blit.allocState ≠ .none) (ox oy : Nat)
    (hw : fits 16 s.blit.allocVw = true) (hh : fits 16 s.blit.allocVh = true) :
    BlitInv (registerFlush s.blit.allocVw s.blit.allocVh ox oy s) := by
  have hfailed : s.blit.allocState ≠ .failed := fun hf => by
    simp [h.aborted_iff_failed.mpr hf] at hg
  have hok : s.blit.allocState = .ok := by
    cases hs : s.blit.allocState with
    | none => exact absurd hs ha
    | ok => rfl
    | failed => exact absurd hs hfailed
  have hcount : s.blit.regCount = 0 := by simpa [hr] using h.counted_once
  simp only [fits, decide_eq_true_eq] at hw hh
  exact { h with
    registered_means_allocated := fun _ => hok
    registered_canvas := fun _ => by simpa using ⟨hw, hh⟩
    counted_once := by simp [hcount]
    completions_registered := fun _ => rfl }

/-- R252: a completion is logged, and comes only from a registered front end. -/
theorem BlitInv.signalCompletion (h : BlitInv s) (hr : s.blit.flushRegistered = true) (w : Window) :
    BlitInv (signalCompletion w s) :=
  { h with
    log_counts := by simp [Machine.signalCompletion, h.log_counts]
    completions_registered := fun _ => hr }

/-- Where a blit ends, BLIT's state differs at most in blit_calls. -/
theorem blitBody_counts (w : Window) (px : Nat) (s : State) :
    (blitBody w px s).Ends
      (fun u => u.cfg = s.cfg ∧ ∃ n, u.blit = { s.blit with blitCalls := n }) := by
  refine blitBody_ends ⟨rfl, s.blit.blitCalls, rfl⟩ fun ws => ?_
  obtain ⟨hpaint, hblit⟩ := copyBytes_only ws.length ws (countBlit s)
  exact ⟨by rw [hpaint]; rfl, _, hblit⟩

theorem BlitInv.recounted (h : BlitInv s) (hc : t.cfg = s.cfg) {n : Nat}
    (hb : t.blit = { s.blit with blitCalls := n }) : BlitInv t :=
  BlitInv.of_blit_eq (s := { s with blit := { s.blit with blitCalls := n } }) { h with } hc hb

/-- Only BLIT's four operations write BLIT's state. -/
theorem exec_blit_eq {i : Instr} (hi : i.opcode ∉ [Opcode.bufalloc, .flushreg, .flush, .blit])
    (h : exec i s = .next t) : t.blit = s.blit := by
  rcases opcode_unit i.opcode with hu | hu | hu | hu
  · rw [exec_seq_changes hu h]
  · rw [exec_can_changes hu h]
  · rw [exec_rgb_changes hu h]
  · exact absurd hu hi

/-- Every operation that a descriptor can hold keeps the record. -/
theorem BlitInv.exec {i : Instr} (h : BlitInv s) (hw : i.wf = true) (he : exec i s = .next t) :
    BlitInv t := by
  have key : ∀ {r : Sub}, finish i.opcode s r = .next t → r.Ends BlitInv → BlitInv t := by
    rintro r ⟨⟩ hr
    exact complete_keeps (P := BlitInv) (fun _ _ hu => hu.of_blit_eq rfl rfl)
      (fun _ _ _ hu => hu.of_blit_eq rfl rfl) (fun _ _ hu => hu.of_blit_eq rfl rfl) h hr
  by_cases hi : i.opcode ∈ [Opcode.bufalloc, .flushreg, .flush, .blit]
  · cases i with
    | bufalloc vw vh bpp f =>
      refine key he (.ite (fun _ => trivial) fun ha => .ite (fun _ => trivial) fun _ =>
        .ite (fun _ => trivial) fun _ => .ite (fun _ => trivial) fun hsize => ?_)
      exact h.allocOutcome (not_not.mp ha) hsize
    | flushreg vw vh ox oy rot =>
      refine key he (.ite (fun _ => trivial) fun _ => .ite (fun _ => trivial) fun hr =>
        .ite (fun _ => h) fun hg => .ite (fun _ => h) fun ha => .ite (fun _ => trivial) fun hcanvas => ?_)
      obtain ⟨rfl, rfl⟩ := not_or.mp hcanvas |>.imp not_not.mp not_not.mp
      simp only [Instr.wf, Bool.and_eq_true, and_assoc] at hw
      obtain ⟨hvw, hvh, -⟩ := hw
      exact h.registerFlush (by simpa using hr) (by simpa using hg) ha ox oy hvw hvh
    | flush x1 y1 x2 y2 px =>
      refine key he (.ite (fun _ => h) fun _ => .ite (fun _ => h) fun hr => .ite (fun _ => h) fun _ => ?_)
      have hreg : s.blit.flushRegistered = true := by simpa using hr
      have hbody := (blitBody_counts (physicalWindow s.blit.offX s.blit.offY x1 y1 x2 y2) px.toNat s).imp
        (Q := fun u => BlitInv u ∧ u.blit.flushRegistered = true)
        fun u ⟨hc, n, hb⟩ => ⟨h.recounted hc hb, by rw [hb]; exact hreg⟩
      refine (hbody.andThen (fun u hu => ?_) fun u hu => ?_).imp fun _ hu => hu.1
      · obtain ⟨hinv, hreg⟩ := hu
        exact ⟨hinv.of_blit_eq (letOthersStep_cfg u) (letOthersStep_blit u),
          (letOthersStep_blit u).symm ▸ hreg⟩
      · obtain ⟨hinv, hreg⟩ := hu
        exact ⟨hinv.signalCompletion hreg _, hreg⟩
    | blit xs xe ys ye px =>
      exact key he ((blitBody_counts _ _ s).imp fun _ ⟨hc, _, hb⟩ => h.recounted hc hb)
    | _ => simp [Instr.opcode] at hi
  · exact h.of_blit_eq (exec_program_eq he).2.1 (exec_blit_eq hi he)

end

/-- Settles O52: HOST's operations by `BlitInv.exec`; a decode fault and the other agents leave BLIT's state. -/
theorem stepKeepsDrawBuffersLegal : Obligations.StepKeepsDrawBuffersLegal := by
  intro s t h hs
  have hu : BlitInv (atTurn s) := h.of_blit_eq (atTurn_cfg s) (atTurn_blit s)
  obtain ⟨-, ⟨i, -, -, hi, he⟩ | ⟨c, n, -, -, -, rfl⟩ | ⟨a, ha, rfl⟩⟩ := step_cases hs
  · exact hu.exec (decode_eq_instr hi).1 he
  · exact hu.of_blit_eq rfl rfl
  · have hr := agentStep_atTurn_ran ha
    exact h.of_blit_eq hr.cfg_eq hr.blit_eq

/-! ### BUFALLOC and FLUSHREG -/

/-- Two ranges of one size share no address exactly when one ends before the other begins. -/
theorem ranges_disjoint_iff (size a1 a2 : Nat) :
    (∀ a, ¬ (a1 ≤ a ∧ a < a1 + size ∧ a2 ≤ a ∧ a < a2 + size)) ↔ a1 + size ≤ a2 ∨ a2 + size ≤ a1 := by
  constructor
  · intro hdisjoint
    have hlast := hdisjoint (max a1 a2)
    omega
  · omega

/-- R241: past its four checks BUFALLOC completes. -/
theorem exec_bufalloc_first {s : State} {vw vh bpp f : Nat} (ha : s.blit.allocState = .none) (hf : f ≠ 0)
    (hb : bpp = s.cfg.bytesPP) (hs : bufferSize vw vh bpp f ≠ 0) :
    exec (.bufalloc vw vh bpp f) s
      = .next (advancePc 3 (allocOutcome vw vh (bufferSize vw vh bpp f) s)) := by
  rw [exec, execBufalloc, if_neg (by simp [ha]), if_neg hf, if_neg (by simp [hb]), if_neg hs]; rfl

/-- Settles O38: the pair drawn is legal, or stands for a null (`allocOutcome_legal`, `allocOutcome_null`). -/
theorem bufallocAllocatesOrAborts : Obligations.BufallocAllocatesOrAborts := by
  rintro s vw vh bpp f size a1 a2 ha hf hb rfl hsize rfl rfl legal hlegal failed rfl
  have hpair : legal ↔ legalPair s.cfg (vw * vh * bpp / f) (drawVal s) (drawVal (afterDraw s)) = true := by
    rw [hlegal, legalPair_iff, ranges_disjoint_iff]
  rw [exec_bufalloc_first ha hf hb hsize]
  have hnull : ¬ legal → allocOutcome vw vh (vw * vh * bpp / f) s = allocFailed (afterDraw (afterDraw s)) :=
    fun h => allocOutcome_null (mt hpair.mpr h)
  refine ⟨fun h => ?_, fun h => ?_, fun _ _ h => ?_⟩
  · rw [bufferSize, allocOutcome_legal (hpair.mp h)]; rfl
  · have hn : ¬ legal := fun hl => by
      obtain ⟨h1, h2, -⟩ := hlegal.mp hl
      exact h.elim h1 h2
    rw [bufferSize, hnull hn]; rfl
  · rw [bufferSize, hnull h]; rfl

/-- Settles O39: past its five checks FLUSHREG registers. -/
theorem flushregRegistersTheCanvas : Obligations.FlushregRegistersTheCanvas := by
  intro s ox oy hr hg ha
  rw [exec, execFlushreg, if_neg (by simp), if_neg (by simp [hr]), if_neg (by simp [hg]), if_neg ha,
    if_neg (by simp)]
  rfl

/-- Settles O44: both operations are done at the check of gfx_aborted. -/
theorem abortedGraphicsHaveNoEffect : Obligations.AbortedGraphicsHaveNoEffect := by
  refine fun s hg => ⟨fun x1 y1 x2 y2 px => ?_, fun vw vh ox oy hr => ?_⟩
  · rw [exec, execFlush, if_pos hg]; rfl
  · rw [exec, execFlushreg, if_neg (by simp), if_neg (by simp [hr]), if_pos hg]; rfl

/-! ### The plan of a blit

One order for both of its columns: a byte offset grows along a row, and from each row to the next, where the
row is at least as long as the window is wide. -/

/-- The byte offset of byte `j` of pixel (`x`, `y`) in rows of `stride` pixels: what the source addresses
(R254) and the frame-buffer indexes (R263) have in common. -/
def rasterOffset (stride bytesPP x y j : Nat) : Nat := (y * stride + x) * bytesPP + j

/-- Raster order: row by row, pixel by pixel, byte by byte. -/
def RasterBefore (x y j x' y' j' : Nat) : Prop := y < y' ∨ y = y' ∧ (x < x' ∨ x = x' ∧ j < j')

theorem rasterOffset_lt {stride b x y j x' y' j' : Nat} (hx : x < stride) (hj : j < b)
    (h : RasterBefore x y j x' y' j') : rasterOffset stride b x y j < rasterOffset stride b x' y' j' := by
  have hpixel : y * stride + x < y' * stride + x' →
      rasterOffset stride b x y j < rasterOffset stride b x' y' j' := fun hlt => by
    calc (y * stride + x) * b + j < (y * stride + x) * b + b := by omega
      _ = (y * stride + x + 1) * b := by ring
      _ ≤ (y' * stride + x') * b := Nat.mul_le_mul_right b hlt
      _ ≤ (y' * stride + x') * b + j' := Nat.le_add_right _ _
  rcases h with hy | ⟨rfl, hx' | ⟨rfl, hj'⟩⟩
  · refine hpixel ?_
    calc y * stride + x < y * stride + stride := by omega
      _ = (y + 1) * stride := by ring
      _ ≤ y' * stride := Nat.mul_le_mul_right stride hy
      _ ≤ y' * stride + x' := Nat.le_add_right _ _
  · exact hpixel (by omega)
  · exact Nat.add_lt_add_left hj' _

theorem natsFrom_pairwise (a n : Nat) : (natsFrom a n).Pairwise (· < ·) :=
  List.pairwise_map.mpr (List.pairwise_lt_range.imp fun h => Nat.add_lt_add_left h a)

theorem mem_natsFrom_sub {a b k : Nat} : k ∈ natsFrom a (b - a) ↔ a ≤ k ∧ k < b := by
  simp only [natsFrom, List.mem_map, List.mem_range]
  constructor
  · rintro ⟨m, hm, rfl⟩; omega
  · intro h; exact ⟨k - a, by omega, by omega⟩

theorem fbIndex_eq (hRes bytesPP x y j : Nat) :
    fbIndex hRes bytesPP x y j = rasterOffset hRes bytesPP x y j := rfl

/-- The byte `j` of pixel (`x`, `y`) lies in the clamped window `w`. -/
def InWindow (p : Params) (w : Window) (x y j : Nat) : Prop :=
  w.xs ≤ x ∧ x < clampX p w ∧ w.ys ≤ y ∧ y < clampY p w ∧ j < p.bytesPP

section
variable {p : Params} {hRes px : Nat} {w : Window}

/-- What holds along the plan holds of each byte of the clamped window, and conversely. -/
theorem forall_mem_transferPlan {P : Nat × Nat → Prop} :
    (∀ q ∈ transferPlan p hRes w px, P q)
      ↔ ∀ x y j, w.xs ≤ x → x < clampX p w → w.ys ≤ y → y < clampY p w → j < p.bytesPP →
        P (srcAddr p w px x y + j, fbIndex hRes p.bytesPP x y j) := by
  constructor
  · exact fun h x y j hx hx' hy hy' hj => h _ (mem_transferPlan.mpr ⟨x, y, j, hx, hx', hy, hy', hj, rfl⟩)
  · intro h q hq
    obtain ⟨x, y, j, hx, hx', hy, hy', hj, rfl⟩ := mem_transferPlan.mp hq
    exact h x y j hx hx' hy hy' hj

/-- The plan is in raster order: what holds from each byte of the window to each later one holds along it. -/
theorem transferPlan_pairwise {R : Nat × Nat → Nat × Nat → Prop}
    (h : ∀ x y j x' y' j', InWindow p w x y j → InWindow p w x' y' j' → RasterBefore x y j x' y' j' →
      R (srcAddr p w px x y + j, fbIndex hRes p.bytesPP x y j)
        (srcAddr p w px x' y' + j', fbIndex hRes p.bytesPP x' y' j')) :
    (transferPlan p hRes w px).Pairwise R := by
  have hbyte : ∀ {x y j}, x ∈ natsFrom w.xs (clampX p w - w.xs) → y ∈ natsFrom w.ys (clampY p w - w.ys) →
      j ∈ List.range p.bytesPP → InWindow p w x y j := fun hx hy hj => by
    obtain ⟨hx, hx'⟩ := mem_natsFrom_sub.mp hx
    obtain ⟨hy, hy'⟩ := mem_natsFrom_sub.mp hy
    exact ⟨hx, hx', hy, hy', List.mem_range.mp hj⟩
  simp only [transferPlan, List.pairwise_flatMap, List.pairwise_map, List.forall_mem_flatMap,
    List.forall_mem_map]
  refine ⟨fun y hy => ⟨fun x hx => ?_, ?_⟩, ?_⟩
  · exact List.pairwise_lt_range.imp_of_mem fun hj hj' hlt =>
      h _ _ _ _ _ _ (hbyte hx hy hj) (hbyte hx hy hj') (.inr ⟨rfl, .inr ⟨rfl, hlt⟩⟩)
  · exact (natsFrom_pairwise _ _).imp_of_mem fun hx hx' hlt j hj j' hj' =>
      h _ _ _ _ _ _ (hbyte hx hy hj) (hbyte hx' hy hj') (.inr ⟨rfl, .inl hlt⟩)
  · exact (natsFrom_pairwise _ _).imp_of_mem fun hy hy' hlt x hx j hj x' hx' j' hj' =>
      h _ _ _ _ _ _ (hbyte hx hy hj) (hbyte hx' hy' hj') (.inl hlt)

/-- R259: a row of the source is at least as long as the clamped window is wide, under both strides. -/
theorem clampX_sub_le_strideOf (p : Params) (w : Window) : clampX p w - w.xs ≤ strideOf p w := by
  have hx : clampX p w ≤ w.xe + 1 := Nat.min_le_left _ _
  unfold strideOf
  split <;> omega

theorem srcAddr_eq (p : Params) (w : Window) (px x y j : Nat) :
    srcAddr p w px x y + j = px + rasterOffset (strideOf p w) p.bytesPP (x - w.xs) (y - w.ys) j :=
  Nat.add_assoc _ _ _

/-- R254: the source addresses of the plan rise. -/
theorem transferPlan_sources_rise (p : Params) (hRes : Nat) (w : Window) (px : Nat) :
    (transferPlan p hRes w px).Pairwise (fun q r => q.1 < r.1) := by
  refine transferPlan_pairwise fun x y j x' y' j' hin hin' hbefore => ?_
  obtain ⟨hx, hx', hy, -, hj⟩ := hin
  obtain ⟨hx₁, -, hy₁, -, -⟩ := hin'
  have hstride := clampX_sub_le_strideOf p w
  simp only [srcAddr_eq]
  refine Nat.add_lt_add_left (rasterOffset_lt (by omega) hj ?_) px
  unfold RasterBefore at hbefore ⊢
  omega

/-- R263: where a row of the frame buffer holds the window, no two bytes of the plan have one index. -/
theorem transferPlan_indexes_nodup (hw : clampX p w ≤ hRes) :
    ((transferPlan p hRes w px).map Prod.snd).Nodup := by
  refine List.pairwise_map.mpr (transferPlan_pairwise fun x y j x' y' j' hin _ hbefore => ?_)
  obtain ⟨-, hx, -, -, hj⟩ := hin
  simp only [fbIndex_eq]
  exact (rasterOffset_lt (hx.trans_le hw) hj hbefore).ne

end

/-! ### Reading the source -/

section
variable {m : Memory} {plan : List (Nat × Nat)}

/-- A source that is written through is gathered whole, each byte with its destination. -/
theorem gather_written (h : ∀ q ∈ plan, memByte m q.1 ≠ none) :
    ∃ ws, gather m plan = .ok ws
      ∧ ws.map (fun w => (w.1, some w.2)) = plan.map (fun q => (q.2, memByte m q.1)) := by
  rcases gather_cases m plan with hok | ⟨before, a, d, after, rfl, -, hnone, -⟩
  · exact hok
  · exact absurd hnone (h (a, d) (by simp))

/-- R275: with rising sources, the address given is the lowest of those never written. -/
theorem gather_unwritten (hrise : plan.Pairwise (fun q r => q.1 < r.1))
    (h : ∃ q ∈ plan, memByte m q.1 = none) :
    ∃ q ∈ plan, gather m plan = .error q.1 ∧ memByte m q.1 = none
      ∧ ∀ r ∈ plan, r.1 < q.1 → memByte m r.1 ≠ none := by
  rcases gather_cases m plan with ⟨ws, -, hmap⟩ | ⟨before, a, d, after, rfl, herr, hnone, hbefore⟩
  · obtain ⟨q, hq, hnone⟩ := h
    have hmem : (q.2, memByte m q.1) ∈ ws.map fun w => (w.1, some w.2) := hmap ▸ List.mem_map_of_mem hq
    simp [hnone] at hmem
  · refine ⟨(a, d), by simp, herr, hnone, fun r hr hlt => ?_⟩
    rcases List.mem_append.mp hr with hr | hr
    · exact hbefore r hr
    · obtain ⟨hafter, -⟩ := List.pairwise_cons.mp (List.pairwise_append.mp hrise).2.1
      rcases List.mem_cons.mp hr with rfl | hr
      · exact absurd hlt (Nat.lt_irrefl _)
      · exact absurd hlt (hafter r hr).asymm

end

theorem sourceWritten_iff {s : State} {w : Window} {px : Nat} (hRes : Nat) :
    SourceWritten s w px ↔ ∀ q ∈ transferPlan s.cfg hRes w px, memByte s.mem q.1 ≠ none :=
  (forall_mem_transferPlan (P := fun q => memByte s.mem q.1 ≠ none)).symm

/-! ### The outcomes of BlitBody, one equation each -/

theorem degenerate_iff {p : Params} {w : Window} :
    degenerate p w = true ↔ clampX p w ≤ w.xs ∨ clampY p w ≤ w.ys := by
  simp [degenerate]

theorem not_degenerate_iff {p : Params} {w : Window} :
    ¬ degenerate p w = true ↔ w.xs < clampX p w ∧ w.ys < clampY p w := by
  simp [degenerate_iff]

section
variable {s : State} {w : Window} {px : Nat}

theorem blitBody_degenerate (hp : s.rgb.phase = .running) (hd : degenerate s.cfg w = true) :
    blitBody w px s = .done s := by
  rw [blitBody, if_neg (not_not.mpr hp), if_pos hd]

theorem blitBody_misaligned (hp : s.rgb.phase = .running) (hd : ¬ degenerate s.cfg w = true)
    (ha : px % s.cfg.bytesPP ≠ 0) : blitBody w px s = .raised s .misaligned px := by
  rw [blitBody, if_neg (not_not.mpr hp), if_neg hd, if_pos ha]

theorem blitBody_unwritten (hp : s.rgb.phase = .running) (hd : ¬ degenerate s.cfg w = true)
    (ha : px % s.cfg.bytesPP = 0) {a : Nat}
    (hg : gather s.mem (transferPlan s.cfg s.rgb.hRes.toNat w px) = .error a) :
    blitBody w px s = .raised s .unwrittenRead a := by
  rw [blitBody, if_neg (not_not.mpr hp), if_neg hd, if_neg (not_not.mpr ha), hg]

theorem blitBody_copies (hp : s.rgb.phase = .running) (hd : ¬ degenerate s.cfg w = true)
    (ha : px % s.cfg.bytesPP = 0) {ws : List (Nat × Byte)}
    (hg : gather s.mem (transferPlan s.cfg s.rgb.hRes.toNat w px) = .ok ws) :
    blitBody w px s = .done (copyBytes ws.length ws (countBlit s)) := by
  rw [blitBody, if_neg (not_not.mpr hp), if_neg hd, if_neg (not_not.mpr ha), hg]

end

/-- Settles O41: the guard of R257 comes before any read. -/
theorem degenerateBlitTransfersNothing : Obligations.DegenerateBlitTransfersNothing := by
  intro s xs xe ys ye px hp hempty
  rw [exec, execBlit, blitBody_degenerate hp (w := ⟨xs, xe, ys, ye⟩) (degenerate_iff.mpr hempty)]
  rfl

/-! ### FLUSH as a blit and a completion -/

theorem signalCompletion_eq {u : State} {b : BlitState} (h : u.blit = b) (w : Window) :
    signalCompletion w u
      = { u with
          blit :=
            { b with
              completions := b.completions + 1
              flushLog := b.flushLog ++ [(w, b.completions + 1)] } } := by
  subst h; rfl

/-- R251, spelled out. -/
theorem pixelsOk_iff {p : Params} {b : BlitState} {px x1 y1 x2 y2 : Nat} :
    pixelsOk p b px x1 y1 x2 y2 = true
      ↔ ∃ a ∈ [b.buf1.toNat, b.buf2.toNat], a ≤ px ∧ px + regionBytes p x1 y1 x2 y2 ≤ a + b.bufSize := by
  simp [pixelsOk]

/-- R249: past its three checks FLUSH runs BlitBody on the moved region, then signals. -/
theorem exec_flush_good {s : State} {x1 y1 x2 y2 : Nat} {px : BitVec 32} (hg : s.blit.gfxAborted = false)
    (hr : s.blit.flushRegistered = true) (hok : pixelsOk s.cfg s.blit px.toNat x1 y1 x2 y2 = true) :
    exec (.flush x1 y1 x2 y2 px) s
      = finish .flush s
          ((blitBody (physicalWindow s.blit.offX s.blit.offY x1 y1 x2 y2) px.toNat s).andThen fun u =>
            .done (signalCompletion (physicalWindow s.blit.offX s.blit.offY x1 y1 x2 y2) u)) := by
  rw [exec, execFlush, if_neg (by simp [hg]), if_neg (by simp [hr]), if_neg (by simp [hok])]

/-- `i` runs BlitBody on the window `w` and the pointer `px`: a BLIT of it, or a FLUSH of a good region that
the registered offset moves to it. -/
def RunsBlitBody (s : State) (w : Window) (px : BitVec 32) (i : Instr) : Prop :=
  i = .blit w.xs w.xe w.ys w.ye px
    ∨ ∃ x1 y1 x2 y2, i = .flush x1 y1 x2 y2 px ∧ w = physicalWindow s.blit.offX s.blit.offY x1 y1 x2 y2
      ∧ s.blit.gfxAborted = false ∧ s.blit.flushRegistered = true
      ∧ pixelsOk s.cfg s.blit px.toNat x1 y1 x2 y2 = true

/-- R274: where BlitBody faults, the whole operation does, with no completion. -/
theorem RunsBlitBody.exec_raised {s : State} {w : Window} {px : BitVec 32} {i : Instr}
    (hi : RunsBlitBody s w px i) {c : FaultCode} {n : Nat}
    (hb : blitBody w px.toNat s = .raised s c n) : exec i s = .next (raiseFault c n s) := by
  rcases hi with rfl | ⟨x1, y1, x2, y2, rfl, rfl, hg, hr, hok⟩
  · rw [exec, execBlit, hb]; rfl
  · rw [exec_flush_good hg hr hok, hb]; rfl

/-- Settles O42: of the bytes never written, the one reported is the lowest (`gather_unwritten`). -/
theorem faultingBlitWritesNothing : Obligations.FaultingBlitWritesNothing := by
  intro s w px i hp hx hy hi
  have hruns : RunsBlitBody s w px i := hi
  have hd := not_degenerate_iff.mpr ⟨hx, hy⟩
  refine ⟨fun ha => hruns.exec_raised (blitBody_misaligned hp hd ha), fun ha hsrc => ?_⟩
  rw [sourceWritten_iff s.rgb.hRes.toNat] at hsrc
  push Not at hsrc
  obtain ⟨q, hq, hg, hnone, hlow⟩ :=
    gather_unwritten (transferPlan_sources_rise s.cfg s.rgb.hRes.toNat w px.toNat) hsrc
  obtain ⟨x, y, j, hx, hx', hy, hy', hj, rfl⟩ := mem_transferPlan.mp hq
  exact ⟨x, y, j, hx, hx', hy, hy', hj, hnone, forall_mem_transferPlan.mp hlow,
    hruns.exec_raised (blitBody_unwritten hp hd ha hg)⟩

/-! ### A blit that copies -/

/-- After the copy of a gathered plan, frame buffer 0 holds each source byte at its index and every other
byte as before. -/
theorem copyBytes_plan {s : State} {m : Memory} {plan : List (Nat × Nat)} {ws : List (Nat × Byte)}
    (hmap : ws.map (fun w => (w.1, some w.2)) = plan.map (fun q => (q.2, memByte m q.1)))
    (hnodup : (plan.map Prod.snd).Nodup) (hfb : 0 < s.rgb.fb.length) :
    (∀ q ∈ plan, (fbCells (copyBytes ws.length ws s).rgb 0).read q.2 = memByte m q.1)
      ∧ ∀ i, (∀ q ∈ plan, i ≠ q.2) →
        (fbCells (copyBytes ws.length ws s).rgb 0).read i = (fbCells s.rgb 0).read i := by
  have hindex : ws.map Prod.fst = plan.map Prod.snd := by
    simpa [Function.comp_def] using congrArg (List.map Prod.fst) hmap
  obtain ⟨hwritten, hother⟩ := copyBytes_read ws s hfb (hindex ▸ hnodup)
  constructor
  · intro q hq
    have hmem : (q.2, memByte m q.1) ∈ ws.map fun w => (w.1, some w.2) := hmap ▸ List.mem_map_of_mem hq
    obtain ⟨w, hw, he⟩ := List.mem_map.mp hmem
    obtain ⟨hi, hb⟩ := Prod.mk.inj he
    rw [← hi, ← hb]
    exact hwritten w hw
  · refine fun i hi => hother i fun w hw => ?_
    have hmem : w.1 ∈ plan.map Prod.snd := hindex ▸ List.mem_map_of_mem hw
    obtain ⟨q, hq, he⟩ := List.mem_map.mp hmem
    exact he ▸ hi q hq

/-- A window that transfers, from an aligned and written source, is copied. -/
theorem blitBody_transfers {s : State} {w : Window} {px : Nat} (hp : s.rgb.phase = .running)
    (hd : ¬ degenerate s.cfg w = true) (ha : px % s.cfg.bytesPP = 0) (hsrc : SourceWritten s w px) :
    ∃ ws, blitBody w px s = .done (copyBytes ws.length ws (countBlit s))
      ∧ ws.map (fun v => (v.1, some v.2))
        = (transferPlan s.cfg s.rgb.hRes.toNat w px).map (fun q => (q.2, memByte s.mem q.1)) := by
  obtain ⟨ws, hg, hmap⟩ := gather_written ((sourceWritten_iff s.rgb.hRes.toNat).mp hsrc)
  exact ⟨ws, blitBody_copies hp hd ha hg, hmap⟩

/-- Settles O40: what frame buffer 0 holds by `copyBytes_plan`, what else may change by `copyBytes_only`. -/
theorem blitCopiesTheClampedWindow : Obligations.BlitCopiesTheClampedWindow := by
  rintro s w px ex ey stride src rfl rfl hclamped hrequested hsrc ⟨hp, hfb, hrow⟩ hx hy ha hwritten
  have hstride : stride = strideOf s.cfg w := by
    unfold strideOf
    cases h : s.cfg.srcStride with
    | clamped => exact hclamped h
    | requested => exact hrequested h
  subst hstride
  obtain rfl : src = srcAddr s.cfg w px.toNat := funext fun x => funext fun y => hsrc x y
  obtain ⟨ws, hdone, hmap⟩ := blitBody_transfers hp (not_degenerate_iff.mpr ⟨hx, hy⟩) ha hwritten
  obtain ⟨hread, hkept⟩ := copyBytes_plan (s := countBlit s) hmap (transferPlan_indexes_nodup hrow) hfb
  obtain ⟨hpaint, hblit⟩ := copyBytes_only ws.length ws (countBlit s)
  refine ⟨advancePc 4 (copyBytes ws.length ws (countBlit s)), ?_, forall_mem_transferPlan.mp hread,
    fun i hi => hkept i (forall_mem_transferPlan.mpr hi),
    (copyBytes_others ws.length ws (countBlit s)).2, ?_, congrArg State.rgb hpaint,
    congrArg State.can hpaint, fun hc => ?_, ?_⟩
  · rw [exec, execBlit, hdone]; rfl
  · intro a
    rw [advancePc_mem, hpaint]; rfl
  · exact copyBytes_can_idle _ _ (Bool.eq_false_iff.mpr (mt (canEnabled_iff s).mp hc))
  · unfold SameButPainting at hpaint
    rw [hblit] at hpaint
    rw [hpaint]; rfl

/-! ### A flush that completes -/

/-- What the other agents do is the same after HOST's PC has moved. -/
theorem OthersRan.advancePc {s t : State} (h : OthersRan s t) (n : Nat) :
    OthersRan (advancePc n s) (advancePc n t) := by
  have hr := h.withAgents (h := Machine.advancePc n s) rfl
  rw [h.only] at hr ⊢
  exact hr

/-- R254, R257: past its checks a blit is done, PC and FAULT kept, and counted if it transfers. -/
theorem blitBody_completes {s : State} {w : Window} {px : Nat} (hp : s.rgb.phase = .running)
    (hsrc : w.xs < clampX s.cfg w → w.ys < clampY s.cfg w →
      px % s.cfg.bytesPP = 0 ∧ SourceWritten s w px) :
    ∃ b, blitBody w px s = .done b ∧ b.pc = s.pc ∧ b.fault = s.fault
      ∧ b.blit
        = { s.blit with
            blitCalls :=
              if w.xs < clampX s.cfg w ∧ w.ys < clampY s.cfg w then s.blit.blitCalls + 1
              else s.blit.blitCalls } := by
  by_cases hd : degenerate s.cfg w = true
  · exact ⟨s, blitBody_degenerate hp hd, rfl, rfl, by rw [if_neg fun h => not_degenerate_iff.mpr h hd]⟩
  · have htransfers := not_degenerate_iff.mp hd
    obtain ⟨ha, hw⟩ := and_imp.mpr hsrc htransfers
    obtain ⟨ws, hdone, -⟩ := blitBody_transfers hp hd ha hw
    obtain ⟨hpaint, hblit⟩ := copyBytes_only ws.length ws (countBlit s)
    refine ⟨_, hdone, ?_, ?_, ?_⟩
    · rw [hpaint]; rfl
    · rw [hpaint]; rfl
    · rw [hblit, if_pos htransfers]; rfl

/-- Settles O43: the blit ends in `b`, and the completion is signalled where the other agents leave it. -/
theorem flushBlitsThenSignalsOnce : Obligations.FlushBlitsThenSignalsOnce := by
  rintro s x1 y1 x2 y2 n px w rfl hg hr rfl hinside ⟨hp, -, -⟩ hsrc
  obtain ⟨b, hdone, hpc, hfault, hblit⟩ := blitBody_completes hp hsrc
  refine ⟨advancePc 4 b, advancePc 4 (letOthersStep b), ?_, hfault, congrArg (· + 4) hpc, hblit,
    (letOthersStep_ran b).advancePc 4, ?_⟩
  · rw [exec, execBlit, hdone]; rfl
  · have hflush := exec_flush_good hg hr (pixelsOk_iff.mpr hinside)
    unfold physicalWindow at hflush
    have hu : (advancePc 4 b).blit = _ := hblit
    rw [hflush, hdone, Sub.done_andThen, finish_eq, complete_done,
      signalCompletion_eq ((letOthersStep_blit b).trans hblit), hu]
    rfl

end Sys2Proof.Machine
end

section
/-! PROOFS. Family 60_exceptions: what the agents may write, the stops, and refusals (O37, O54, O45, O46). -/

namespace Sys2Proof.Machine

/-! ### The agents' write sets and the stops -/

/-- Settles O37: what each agent's step can change is said by `canStep_only` and `scanStep_only`. -/
theorem agentsWriteOnlyTheirState : Obligations.AgentsWriteOnlyTheirState :=
  fun s => ⟨fun e => canStep_only e s, scanStep_only s⟩

/-- Settles O54: HOST steps only while neither is set, and the other agents leave both. -/
theorem faultAndRefusalAreSticky : Obligations.FaultAndRefusalAreSticky := by
  intro s t h
  obtain ⟨-, ⟨i, hf, hq, -, -⟩ | ⟨c, info, hf, hq, -, -⟩ | ⟨a, ha, rfl⟩⟩ := step_cases h
  · simp [hf, hq]
  · simp [hf, hq]
  · have hr := agentStep_atTurn_ran ha
    exact ⟨fun r hs => hr.fault_eq.trans hs, fun q hs => hr.qmark_eq.trans hs⟩

/-! ### Bad parameters -/

/-- R8, with R15's two minima, condition by condition. -/
theorem parametersOk_iff {p : Params} :
    parametersOk p = true
      ↔ 1 ≤ p.panelW ∧ 1 ≤ p.panelH ∧ 1 ≤ p.bufFactor ∧ 1 ≤ p.bus.rxqDepth ∧ p.bpp = 8 * p.bytesPP
        ∧ 1 ≤ p.bytesPP ∧ 120 ≤ reqDelayOf p p.slpoutCode ∧ 20 ≤ reqDelayOf p p.disponCode := by
  simp only [parametersOk, Bool.and_eq_true, decide_eq_true_eq, and_assoc]
  rfl

/-- R13, role by role. -/
theorem roleMin_le_iff {r : Role} {n : Nat} :
    roleMin r ≤ n
      ↔ (r = .sleepOut → 120 ≤ n) ∧ (r = .powerCtl → 10 ≤ n) ∧ (r = .midDelay → 10 ≤ n)
        ∧ (r = .displayOn → 20 ≤ n) := by
  cases r <;> simp [roleMin, tMid, tSlpout, tPwrctl, tDispon]

/-- What R14 asks of one entry of the transcript, role by role. -/
def EntryOk (p : Params) (e : TranscriptEntry) : Prop :=
  (e.role = .sleepOut → 120 ≤ e.postDelay ∧ e.cmd = p.slpoutCode)
    ∧ (e.role = .powerCtl → 10 ≤ e.postDelay) ∧ (e.role = .midDelay → 10 ≤ e.postDelay)
    ∧ (e.role = .displayOn → 20 ≤ e.postDelay ∧ e.cmd = p.disponCode)

theorem entryOk_iff {p : Params} {e : TranscriptEntry} :
    EntryOk p e
      ↔ roleMin e.role ≤ e.postDelay ∧ (e.role = .sleepOut → e.cmd = p.slpoutCode)
        ∧ (e.role = .displayOn → e.cmd = p.disponCode) := by
  rw [EntryOk, roleMin_le_iff]
  tauto

/-- R14: three roles have an entry, and every entry is as its role asks. -/
theorem transcriptOk_iff {p : Params} :
    transcriptOk p = true
      ↔ p.transcript ≠ [] ∧ (∃ e ∈ p.transcript, e.role = .sleepOut)
        ∧ (∃ e ∈ p.transcript, e.role = .powerCtl) ∧ (∃ e ∈ p.transcript, e.role = .displayOn)
        ∧ ∀ e ∈ p.transcript, EntryOk p e := by
  simp only [entryOk_iff, forall₂_and]
  simp [transcriptOk, and_assoc, ← imp_iff_not_or]

section
variable {p : Params} {s : State}

theorem paramsRefusal_numbers (h : ¬ parametersOk p = true) : paramsRefusal p = some .badParameters :=
  if_pos (by simpa using h)

theorem paramsRefusal_transcript (h : parametersOk p = true) (ht : ¬ transcriptOk p = true) :
    paramsRefusal p = some .badTranscript := by
  rw [paramsRefusal, if_neg (by simp [h]), if_pos (by simpa using ht)]

theorem paramsOk_iff : ParamsOk p ↔ parametersOk p = true ∧ transcriptOk p = true := by
  unfold ParamsOk paramsRefusal
  cases parametersOk p <;> cases transcriptOk p <;> simp

/-- No agent steps with parameters that fail their checks. -/
theorem step_badParams {r : Refusal} (h : paramsRefusal s.cfg = some r) : step s = .refused r := by
  unfold step machineStep
  rw [h]

/-! ### Pins -/

/-- R281: SETPIN's body is refused where reset and chip-select share a pin. -/
theorem setPin_shared (hp : s.cfg.rstPin = s.cfg.csPin) (pin : BitVec 8) (l : Bool) :
    setPin pin l s = .refused .param := if_pos hp

theorem csEnable_shared (hp : s.cfg.rstPin = s.cfg.csPin) (hh : s.seq.csHeld = false) :
    csEnable s = .refused .param := by
  rw [csEnable, if_neg (by simp [hh]), setPin_shared hp, Sub.refused_andThen]

theorem csDisable_shared (hp : s.cfg.rstPin = s.cfg.csPin) (hh : s.seq.csHeld = true) :
    csDisable s = .refused .param := by
  rw [csDisable, if_pos hh, setPin_shared hp, Sub.refused_andThen]

theorem presetBody_shared (hp : s.cfg.rstPin = s.cfg.csPin) : presetBody s = .refused .param := by
  rw [presetBody, setPin_shared hp, Sub.refused_andThen]

/-- A refusal in the chip-select bracket ends INITSEQ, and discards that it has begun. -/
theorem initseqBody_shared (hp : s.cfg.rstPin = s.cfg.csPin) (hh : s.seq.csHeld = false) :
    initseqBody s = .refused .param := by
  have hopen : csEnable (beginInitseq s) = .refused .param := csEnable_shared hp hh
  simp only [initseqBody, hopen, Sub.refused_andThen]

end

/-- Settles O46: each operation's first SETPIN is refused, and a refused operation has no other effect. -/
theorem sharedPinRefusesTheLines : Obligations.SharedPinRefusesTheLines := by
  refine fun s hp => ⟨?_, fun hh => ?_, fun hh => ?_, fun hh => ?_⟩
  · rw [exec, execPreset, presetBody_shared hp]; rfl
  · rw [exec, execCsen, csEnable_shared hp hh]; rfl
  · rw [exec, execCsdis, csDisable_shared hp hh]; rfl
  · rw [exec, execInitseq, initseqBody_shared hp hh]; rfl

/-! ### Refused requests -/

/-- R242: a product below the factor gives an empty buffer. -/
theorem bufferSize_eq_zero {vw vh bpp f : Nat} (h : vw * vh * bpp < f) : bufferSize vw vh bpp f = 0 :=
  Nat.div_eq_of_lt h

/-- Settles O45: the parameter checks come before any step, and each operation's checks in their order. -/
theorem refusedRequestsOnlySetQmark : Obligations.RefusedRequestsOnlySetQmark := by
  refine fun s => ⟨fun numbersGood transcriptGood hn ht => ?_, fun p l hp => ?_, fun req hb => ?_,
    fun c htried => ?_, fun c htried hd => ?_, fun c hp => ?_, fun c hp hg => ?_, fun vw vh bpp f ha => ?_,
    fun vw vh bpp ha => ?_, fun vw vh bpp f ha hf hb => ?_, fun vw vh bpp f ha hf hb hs => ?_,
    fun vw vh ox oy rot hrot => ?_, fun vw vh ox oy hr => ?_, fun vw vh ox oy hr hg ha hc => ?_⟩
  · rw [hn.trans parametersOk_iff.symm, ht.trans transcriptOk_iff.symm]
    exact ⟨paramsOk_iff.symm, fun h => step_badParams (paramsRefusal_numbers h),
      fun h h' => step_badParams (paramsRefusal_transcript h h')⟩
  · rw [exec, execSetpin, setPin_shared (not_not.mp hp)]; rfl
  · rw [exec, execBlset, if_pos hb]; rfl
  · exact exec_cancfg_again htried
  · rw [exec, execCancfg, if_neg (by simp [htried]), if_pos hd]; rfl
  · rw [exec, execDpcfg, if_pos hp]; rfl
  · have hgeom : ¬ geomOk s.cfg c = true := mt geomOk_iff.mp hg
    rw [exec, execDpcfg, if_neg (by simp [hp]), if_pos (by simpa using hgeom)]; rfl
  · rw [exec, execBufalloc, if_pos ha]; rfl
  · rw [exec, execBufalloc, if_neg (by simp [ha]), if_pos rfl]; rfl
  · rw [exec, execBufalloc, if_neg (by simp [ha]), if_neg hf, if_pos hb]; rfl
  · rw [exec, execBufalloc, if_neg (by simp [ha]), if_neg hf, if_neg (by simp [hb]),
      if_pos (bufferSize_eq_zero hs)]
    rfl
  · rw [exec, execFlushreg, if_pos hrot]; rfl
  · rw [exec, execFlushreg, if_neg (by simp), if_pos hr]; rfl
  · rw [exec, execFlushreg, if_neg (by simp), if_neg (by simp [hr]), if_neg (by simp [hg]), if_neg ha,
      if_pos hc]
    rfl

end Sys2Proof.Machine
end

section
/-! PROOFS. Family 70_reset_and_hazards: the least time of the bring-up, and what is done out of order (O26,
O47).

The clock is moved by SEQ's operations alone (`exec_now_eq`). Each ordering fault is an early check of its
operation, so no sub-step has run when it is raised. -/

namespace Sys2Proof.Machine

/-! ### The time of the bring-up -/

section
variable {s t : State}

/-- R313: an operation outside SEQ takes no time, however it ends. -/
theorem exec_now_eq {i : Instr}
    (hi : i.opcode ∉ [Opcode.wrcmd, .wrdata, .delay, .csen, .csdis, .preset, .initseq, .setpin])
    (h : exec i s = .next t) : t.now = s.now := by
  rcases opcode_unit i.opcode with hu | hu | hu | hu
  · exact absurd hu hi
  · rw [exec_can_changes hu h]
  · rw [exec_rgb_changes hu h]
  · rw [exec_blit_changes hu h]

/-- R155, R162: where the lines have two pins, PRESET is done after its two waits, whatever the reset line's
record was. -/
theorem presetBody_takes (hp : s.cfg.rstPin ≠ s.cfg.csPin) :
    ∃ u, presetBody s = .done u ∧ s.now + (tRstLow + tRstWait) ≤ u.now := by
  refine ⟨_, by rw [presetBody, setPin_done hp, Sub.done_andThen, setPin_done (by simpa using hp),
    Sub.done_andThen], ?_⟩
  simp only [wait_now, letOthersStep_now, withSeq_now]
  omega

theorem exec_preset_now_le (hp : s.cfg.rstPin ≠ s.cfg.csPin) (h : exec .preset s = .next t) :
    s.now + 60 ≤ t.now := by
  obtain ⟨u, hu, hle⟩ := presetBody_takes hp
  rw [exec, execPreset, hu] at h
  cases h
  exact hle

end

/-- Settles O26: a completed INITSEQ needs two pins, so the PRESET before it was not refused and took its two
waits; INITSEQ's own time is O25's. -/
theorem bringUpTakesItsMinimumTime : Obligations.BringUpTakesItsMinimumTime := by
  refine ⟨fun s t u hok hpreset hinit => ?_, fun i s t hi h => exec_now_eq ?_ h⟩
  · have hcfg : t.cfg = s.cfg := (exec_program_eq hpreset).2.1
    obtain ⟨_, _, _, _, _, hr⟩ := hinit.replayed
    have hreset := exec_preset_now_le (hcfg ▸ hr.pins) hpreset
    obtain ⟨-, hleast, hmid⟩ := initseqTakesItsMinimumTime t u hinit
    rw [hcfg] at hleast hmid
    refine ⟨?_, fun hentry => ?_⟩
    · have := hleast hok
      omega
    · have := hmid hok hentry
      omega
  · simp only [List.mem_cons, List.not_mem_nil, or_false] at hi
    rcases hi with hi | hi | hi | hi <;> rw [hi] <;> decide

/-! ### Operations out of order -/

section
variable {s : State}

theorem exec_dpcfg_beforeSeq {c : PlaneConfig} (hp : s.rgb.phase = .unconfigured)
    (hg : geomOk s.cfg c = true) (hd : s.seq.seqDone = false) :
    exec (.dpcfg c) s = .next (raiseFault .dpBeforeSeq s.pc s) := by
  rw [exec, execDpcfg, if_neg (by simp [hp]), if_neg (by simp [hg]), if_pos (by simp [hd])]; rfl

theorem exec_blset_beforePanel (req : Nat) (hb : s.cfg.blMax ≠ 0) (hp : s.rgb.phase ≠ .running) :
    exec (.blset req) s = .next (raiseFault .blBeforePanel s.pc s) := by
  rw [exec, execBlset, if_neg hb, if_pos hp]; rfl

theorem exec_flushreg_withoutBuffers (vw vh ox oy : Nat) (hr : s.blit.flushRegistered = false)
    (hg : s.blit.gfxAborted = false) (ha : s.blit.allocState = .none) :
    exec (.flushreg vw vh ox oy 0) s = .next (raiseFault .regWithoutBuffers s.pc s) := by
  rw [exec, execFlushreg, if_neg (by simp), if_neg (by simp [hr]), if_neg (by simp [hg]), if_pos ha]; rfl

section
variable {x1 y1 x2 y2 : Nat} {px : BitVec 32}

theorem exec_flush_unregistered (hg : s.blit.gfxAborted = false) (hr : s.blit.flushRegistered = false) :
    exec (.flush x1 y1 x2 y2 px) s = .next (raiseFault .flushUnregistered s.pc s) := by
  rw [exec, execFlush, if_neg (by simp [hg]), if_pos (by simp [hr])]; rfl

theorem exec_flush_badPixels (hg : s.blit.gfxAborted = false)
    (hr : s.blit.flushRegistered = true) (hbad : ¬ pixelsOk s.cfg s.blit px.toNat x1 y1 x2 y2 = true) :
    exec (.flush x1 y1 x2 y2 px) s = .next (raiseFault .badPixels s.pc s) := by
  rw [exec, execFlush, if_neg (by simp [hg]), if_neg (by simp [hr]), if_pos (by simpa using hbad)]; rfl

end

/-- R260: without a running data plane BLIT and FLUSH fault before their blit looks at its window. -/
theorem RunsBlitBody.exec_noPanel {w : Window} {px : BitVec 32} {i : Instr} (hi : RunsBlitBody s w px i)
    (hp : s.rgb.phase ≠ .running) : exec i s = .next (raiseFault .blitNoPanel s.pc s) :=
  hi.exec_raised (if_pos hp)

end

/-- Settles O47: each operation's checks in their order, up to the one that raises its ordering fault. -/
theorem outOfOrderOperationsFault : Obligations.OutOfOrderOperationsFault := by
  refine fun s => ⟨fun c hp hg hd => exec_dpcfg_beforeSeq hp (geomOk_iff.mpr hg) hd,
    fun req hb hp => exec_blset_beforePanel req hb hp,
    fun xs xe ys ye px hp => RunsBlitBody.exec_noPanel (w := ⟨xs, xe, ys, ye⟩) (.inl rfl) hp,
    fun vw vh ox oy hr hg ha => exec_flushreg_withoutBuffers vw vh ox oy hr hg ha,
    fun x1 y1 x2 y2 px hg hr => exec_flush_unregistered hg hr, ?_⟩
  rintro x1 y1 x2 y2 n px inside hg hr rfl hinside
  have hok : inside ↔ pixelsOk s.cfg s.blit px.toNat x1 y1 x2 y2 = true := hinside.trans pixelsOk_iff.symm
  exact ⟨fun hout => exec_flush_badPixels hg hr (mt hok.mpr hout),
    fun hin hp => RunsBlitBody.exec_noPanel (.inr ⟨x1, y1, x2, y2, rfl, rfl, hg, hr, hok.mp hin⟩) hp⟩

end Sys2Proof.Machine
end

section
/-! PROOFS. Family other: a descriptor with a must-be-0 bit set (O8). -/

namespace Sys2Proof

/-- The word reported is one with a bit of its mask set, numbered from the start of the count. -/
theorem dirty_of_firstReserved_eq_some {ms vs : List Word} {k i : Nat}
    (h : firstReserved k ms vs = some i) :
    ∃ j < ms.length, i = k + j ∧ vs.getD j 0#32 &&& ms.getD j 0#32 ≠ 0#32 := by
  induction ms generalizing vs k with
  | nil => simp at h
  | cons m ms ih =>
    cases vs with
    | nil => simp [firstReserved] at h
    | cons v vs =>
      rw [firstReserved] at h
      split at h
      case isTrue =>
        obtain ⟨j, hj, rfl, hdirty⟩ := ih h
        exact ⟨j + 1, by simpa using hj, by omega, hdirty⟩
      case isFalse hdirty =>
        cases h
        exact ⟨0, by simp, rfl, hdirty⟩

/-- Where some word has a bit of its mask set, such a word is reported. -/
theorem exists_firstReserved_of_dirty {ms vs : List Word} (hlen : ms.length ≤ vs.length)
    (h : ∃ j < ms.length, vs.getD j 0#32 &&& ms.getD j 0#32 ≠ 0#32) :
    ∃ k < ms.length, vs.getD k 0#32 &&& ms.getD k 0#32 ≠ 0#32 ∧ firstReserved 0 ms vs = some k := by
  have hne : firstReserved 0 ms vs ≠ none := by
    rw [Ne, firstReserved_eq_none_iff hlen]
    push Not
    exact h
  obtain ⟨i, hi⟩ := Option.ne_none_iff_exists'.mp hne
  obtain ⟨k, hk, hik, hdirty⟩ := dirty_of_firstReserved_eq_some hi
  rw [Nat.zero_add] at hik
  exact ⟨k, hk, hdirty, hik ▸ hi⟩

theorem decode_reserved {d : List Word} {pc k : Nat} {h : Word} {o : Opcode} (hd : d[pc]? = some h)
    (ho : o.byte = byteOf 0 h) (hlen : pc + o.len ≤ d.length)
    (hk : firstReserved 0 o.masks (d.drop pc) = some k) : decode d pc = .reservedField k := by
  simp only [decode, hd, ofByte_eq_some.mpr ho, Nat.not_lt.mpr hlen, if_false, hk]

theorem getD_drop_word (d : List Word) (pc k : Nat) :
    (d.drop pc).getD k 0#32 = d.getD (pc + k) 0#32 := by
  simp only [List.getD_eq_getElem?_getD, List.getElem?_drop]

open Machine

/-- Settles O8: the check of the descriptor's words reports one with a must-be-0 bit, and the decode fault
with its number is the whole step. -/
theorem reservedBitFaults : Obligations.ReservedBitFaults := by
  intro s h o hp ht hh ho hlen hbit
  have hwords : o.masks.length ≤ (s.desc.drop s.pc).length := by
    rw [masks_length, List.length_drop]
    omega
  have hreport := exists_firstReserved_of_dirty hwords
  simp only [masks_length, getD_drop_word, BitVec.and_comm (s.desc.getD _ _)] at hreport
  obtain ⟨k, hk, hdirty, hfirst⟩ := hreport hbit
  refine ⟨k, hk, hdirty, step_of_decodeFault hp ht ?_⟩
  simp only [hostStep, atTurn_desc, atTurn_pc, decode_reserved hh ho hlen hfirst]

end Sys2Proof
end
